-- ==== Sys2Proof/Word.lean ====
section
/-! DEFINITION. The word types of the block: the byte, the 16-bit half word, the six-bit field of a data-plane
command, and the setup descriptor as eight named bytes (30_encoding.md R95). -/

namespace Sys2Proof

/-- A byte, 8 bits (R8). -/
abbrev Byte := BitVec 8

/-- A 16-bit quantity: a setup field or the checksum accumulator (R95, R123). -/
abbrev Half := BitVec 16

/-- The six-bit operand of a data-plane command: line bits or a count (R99). -/
abbrev Six := BitVec 6

/-- The Request Descriptor: the eight bytes of a control transfer's setup phase, in their order (R31, R95). -/
structure SetupDesc where
  bmRequestType : Byte
  bRequest : Byte
  wValueL : Byte
  wValueH : Byte
  wIndexL : Byte
  wIndexH : Byte
  wLengthL : Byte
  wLengthH : Byte
  deriving DecidableEq, Repr

end Sys2Proof
end

