-- ==== Sys2Proof/Config.lean ====
section
/-! DEFINITION. What an implementation fixes: the constants of 00_scope.md R6, the parameters of R7 as one record of
plain data, and the free values (opaque constants) that the spec leaves to the environment or to nobody. -/

namespace Sys2Proof

/-! Constants the source fixes (R6). -/

/-- Capacity of the output ring buffer in bytes. -/
def Config.cap : Nat := 256
/-- The ingestion gate: `CAP - HEADROOM`, with a headroom of 63. -/
def Config.gate : Nat := 193
/-- Most ring bytes in one bulk-IN packet. -/
def Config.maxPayload : Nat := 62
/-- The two-byte magic header of every bulk-IN packet. -/
def Config.hdr : List Byte := [0x31, 0x60]
/-- Most bytes in one bulk-IN packet. -/
def Config.maxPacket : Nat := 64
/-- Size of the Configuration Block. -/
def Config.cfgSize : Nat := 128
/-- Zero fill runs up to this offset; the checksum stands from here. -/
def Config.cfgDataEnd : Nat := 126
/-- Reply to an unknown vendor IN request. -/
def Config.placeholder : List Byte := [0x36, 0x83]
/-- The second status line, never sampled: always 1. -/
def Config.secondaryStatus : Bool := true
/-- Nominal tick rate in Hz; no rule reads it. -/
def Config.tickHz : Nat := 100
/-- Nominal renumeration settle interval in milliseconds; no rule reads it. -/
def Config.settleMs : Nat := 250

/-- An endpoint's data toggle as the transport holds it. PRESUMED (log 5), safe: the spec calls it opaque; a reset toggle is
`data0`, USB's name, and no rule reads it. -/
inductive DataToggle where
  | data0
  | data1
  deriving DecidableEq, Repr, Inhabited

/-- The reply length of GET_STATUS to an endpoint (D13). -/
inductive EpStatusLen where
  | one
  | two
  deriving DecidableEq, Repr

/-- One set of descriptors: opaque byte lists (R38, D20). -/
structure DescSet where
  device : List Byte
  deviceQualifier : List Byte
  configuration : List Byte
  otherSpeed : List Byte
  strings : List (List Byte)
  deriving DecidableEq, Repr

/-- The descriptor references: which list each names may depend on `SpeedMode` (R38), so there is one set for each
value of that flag. -/
structure Desc where
  normal : DescSet
  alternate : DescSet
  deriving DecidableEq, Repr

/-- The parameters the source leaves open (R7), plain data. A machine has one value of this record, and no step
changes it. DESIGN CHOICE (log 1), safe: it is a field of State, so that a statement about every state holds for every
value of every parameter. -/
structure Params where
  /-- `MAX_CHUNK` (D2). -/
  maxChunk : Nat
  /-- `SHIFT_LSB_FIRST` (D5). -/
  shiftLsbFirst : Bool
  /-- `ARM_SETS_TICK` (D4). -/
  armSetsTick : Bool
  /-- `VR_START` (D11). -/
  vrStart : Byte
  vrReadConfig : Byte
  vrChangeSpeed : Byte
  vrChangeMaster : Byte
  vrChangeMode : Byte
  vrGetVersion : Byte
  /-- `FW_VERSION` (D18). -/
  fwVersion : List Byte
  /-- `EP_STATUS_LEN` (D13). -/
  epStatusLen : EpStatusLen
  /-- `NUM_STRINGS` (D20). -/
  numStrings : Nat
  /-- `CKSUM_SEED` (D19). -/
  cksumSeed : Half
  /-- `STR_BASE` (D19). -/
  strBase : Byte
  cfgReserved : Vector Byte 2
  cfgIdentity : Vector Byte 6
  cfgPower : Vector Byte 2
  cfgMarker : Vector Byte 2
  cfgUsbVer : Vector Byte 2
  cfgStr1 : List Byte
  cfgStr2 : List Byte
  cfgStr3 : List Byte
  cfgStrOrder : Vector Byte 4
  /-- `RESET_SPEED_MODE` (D9). -/
  resetSpeedMode : Bool
  resetJtagMaster : Bool
  resetSyncMode : Bool
  /-- The descriptor contents (D20). -/
  desc : Desc
  deriving DecidableEq, Repr

/-! Parameters with no default (R7: "must be supplied", "none: universally quantified"): opaque constants (log 2, 3). -/

opaque Config.cfgIdentity : Vector Byte 6
opaque Config.cfgPower : Vector Byte 2
opaque Config.cfgMarker : Vector Byte 2
opaque Config.cfgUsbVer : Vector Byte 2
opaque Config.cfgStrOrder : Vector Byte 4
/-- The bytes of the configuration strings 1, 2 and 3 before they are cut to what R124 admits. -/
opaque Config.cfgStr : Nat → List Byte
/-- The first character and the others of the firmware version string, before they are held to what R7 admits. -/
opaque Config.fwHead : Byte
opaque Config.fwTail : List Byte
opaque Config.resetSpeedMode : Bool
opaque Config.resetJtagMaster : Bool
opaque Config.resetSyncMode : Bool
/-- Descriptor contents, for each value of `SpeedMode`. -/
opaque Config.descDevice : Bool → List Byte
opaque Config.descDeviceQualifier : Bool → List Byte
opaque Config.descConfiguration : Bool → List Byte
opaque Config.descOtherSpeed : Bool → List Byte
opaque Config.descString : Bool → Nat → List Byte

/-! Free values: what the environment answers and what nobody fixes (93_implementation_defined.md). -/

/-- The answer of `Line.get_state` or `Line.shift_in_out` number `n` for which no answer is scripted (U8, log 10). -/
opaque Config.lineSample : Nat → Bool
/-- What a ring byte holds that nothing has written (U3, log 6). -/
opaque Config.ringAtReset : Nat → Byte
/-- `TickFlag` at reset (U4, log 4). -/
opaque Config.resetTickFlag : Bool
/-- The stall bit of an endpoint address that nothing has written since power-up (first argument 0) or since
renumeration number `n` (U6, U9, log 5). -/
opaque Config.epStallFree : Nat → Byte → Bool
/-- The data toggle of an endpoint address that nothing has reset since power-up (first argument 0) or since renumeration
number `n` (R41, U6, U9, log 5). -/
opaque Config.epToggleFree : Nat → Byte → DataToggle
/-- The transport's state after renumeration number `n` (U9, log 11): busy or not, waiting chunks, the payload of a
packet it still holds, and whether the reply staged afterwards reaches the host. -/
opaque Config.renumInBusy : Nat → Bool
opaque Config.renumQueue : Nat → List (List Byte)
opaque Config.renumPayload : Nat → Option (List Byte)
opaque Config.renumDelivers : Nat → Bool

/-- A character that R7 admits in the version string: ASCII and not zero. DESIGN CHOICE (log 2): a byte that is none is
replaced by the digit one, so that every admitted string and no other is a value of `Config.params.fwVersion`. -/
def Config.admittedChar (b : Byte) : Byte := if 0 < b.toNat ∧ b.toNat < 128 then b else 0x31

/-- String `k` of the configuration block, cut so that the three together hold at most 102 bytes (R124, log 2). -/
def Config.cfgStr1 : List Byte := (Config.cfgStr 1).take 102
def Config.cfgStr2 : List Byte := (Config.cfgStr 2).take (102 - Config.cfgStr1.length)
def Config.cfgStr3 : List Byte := (Config.cfgStr 3).take (102 - Config.cfgStr1.length - Config.cfgStr2.length)

/-- The descriptor set for one value of `SpeedMode`, with the default number of strings. -/
def Config.descSet (alt : Bool) : DescSet where
  device := Config.descDevice alt
  deviceQualifier := Config.descDeviceQualifier alt
  configuration := Config.descConfiguration alt
  otherSpeed := Config.descOtherSpeed alt
  strings := [Config.descString alt 0, Config.descString alt 1, Config.descString alt 2, Config.descString alt 3]

/-- The parameters of the machine at reset: R7's default where there is one, else the opaque constant. -/
def Config.params : Params where
  maxChunk := 64
  shiftLsbFirst := true
  armSetsTick := true
  vrStart := 0x00
  vrReadConfig := 0x90
  vrChangeSpeed := 0x91
  vrChangeMaster := 0x92
  vrChangeMode := 0x93
  vrGetVersion := 0x94
  fwVersion := Config.admittedChar Config.fwHead :: Config.fwTail.map Config.admittedChar
  epStatusLen := .one
  numStrings := 4
  cksumSeed := 0xAAAA
  strBase := 0x80
  cfgReserved := #v[0x00, 0x00]
  cfgIdentity := Config.cfgIdentity
  cfgPower := Config.cfgPower
  cfgMarker := Config.cfgMarker
  cfgUsbVer := Config.cfgUsbVer
  cfgStr1 := Config.cfgStr1
  cfgStr2 := Config.cfgStr2
  cfgStr3 := Config.cfgStr3
  cfgStrOrder := Config.cfgStrOrder
  resetSpeedMode := Config.resetSpeedMode
  resetJtagMaster := Config.resetJtagMaster
  resetSyncMode := Config.resetSyncMode
  desc := { normal := Config.descSet false, alternate := Config.descSet true }

end Sys2Proof
end

