-- ==== Sys2Proof/Syntax.lean ====
section
/-! DEFINITION. The instructions: one constructor per row of spec/opcode_table.json, in the table's order, each with the
operands that its rule names (30_encoding.md R99). A catch-all row carries the code, type or recipient it was matched
with. Fields that no rule names are not carried (R108, log 23). -/

namespace Sys2Proof

/-- The 49 rows of the opcode table: 6 data-plane commands, 35 control requests, 8 events. -/
inductive Instr where
  /-- `BBW L` (R202). -/
  | bbw (l : Six)
  /-- `BBR L` (R203). -/
  | bbr (l : Six)
  /-- `SHW N` (R204). -/
  | shw (n : Six)
  /-- `SHR N` (R208). -/
  | shr (n : Six)
  /-- `DATW D` (R206). -/
  | datw (d : Byte)
  /-- `DATR D` (R205). -/
  | datr (d : Byte)
  /-- class request (R137). -/
  | classAny
  /-- reserved-type request (R138). -/
  | reservedTypeAny
  /-- START (R181). -/
  | start
  /-- any other vendor OUT request (R182). -/
  | vendorOutOther (code : Byte)
  /-- READ_CONFIG (R183). -/
  | readConfig (indexL : Byte) (length : Half)
  /-- CHANGE_SPEED (R184). -/
  | changeSpeed
  /-- CHANGE_MASTER (R185). -/
  | changeMaster
  /-- CHANGE_MODE (R186). -/
  | changeMode
  /-- GET_VERSION (R187). -/
  | getVersion
  /-- any other vendor IN request (R188). -/
  | vendorInOther (code : Byte) (length : Half)
  /-- GET_CONFIGURATION (R141). -/
  | getConfiguration
  /-- GET_INTERFACE (R142). -/
  | getInterface
  /-- GET_DESCRIPTOR device (R144). -/
  | getDescriptorDevice
  /-- GET_DESCRIPTOR configuration (R146). -/
  | getDescriptorConfiguration
  /-- GET_DESCRIPTOR string (R148). -/
  | getDescriptorString (index : Byte)
  /-- GET_DESCRIPTOR device-qualifier (R145). -/
  | getDescriptorDeviceQualifier
  /-- GET_DESCRIPTOR other-speed-configuration (R147). -/
  | getDescriptorOtherSpeed
  /-- GET_DESCRIPTOR of any other type (R149). -/
  | getDescriptorOther (type : Byte)
  /-- GET_STATUS, device recipient (R150). -/
  | getStatusDevice
  /-- GET_STATUS, interface recipient (R151). -/
  | getStatusInterface
  /-- GET_STATUS, endpoint recipient (R154). -/
  | getStatusEndpoint (a : Byte)
  /-- GET_STATUS, any other recipient (R155). -/
  | getStatusOther (recipient : BitVec 5)
  /-- SYNCH_FRAME (R156). -/
  | synchFrame
  /-- any other standard IN request (R157). -/
  | standardInOther (code : Byte)
  /-- SET_CONFIGURATION (R152). -/
  | setConfiguration (value : Byte)
  /-- SET_INTERFACE (R153). -/
  | setInterface (value : Byte)
  /-- CLEAR_FEATURE, endpoint recipient (R158). -/
  | clearFeatureEndpoint (selector : Byte) (a : Byte)
  /-- SET_FEATURE, endpoint recipient (R159). -/
  | setFeatureEndpoint (selector : Byte) (a : Byte)
  /-- CLEAR_FEATURE, device recipient (R160). -/
  | clearFeatureDevice (selector : Byte)
  /-- SET_FEATURE, device recipient (R161). -/
  | setFeatureDevice (selector : Byte)
  /-- CLEAR_FEATURE, any other recipient (R162). -/
  | clearFeatureOther (recipient : BitVec 5)
  /-- SET_FEATURE, any other recipient (R162). -/
  | setFeatureOther (recipient : BitVec 5)
  /-- SET_ADDRESS (R163). -/
  | setAddress
  /-- SET_DESCRIPTOR (R164). -/
  | setDescriptor
  /-- any other standard OUT request (R165). -/
  | standardOutOther (code : Byte)
  /-- event: the loop hands a pending setup to the dispatcher (R241). -/
  | setupStep
  /-- event: the ingestion step (R221). -/
  | ingest
  /-- event: a data packet is submitted (R226). -/
  | dataPacket
  /-- event: a keepalive packet is submitted (R227). -/
  | keepalivePacket
  /-- event of the tick source (R267). -/
  | tick
  /-- event of the transport: a setup descriptor arrives (R268). -/
  | setupArrives (d : SetupDesc)
  /-- event of the transport: a bulk-OUT chunk arrives (R269). -/
  | chunkArrives (chunk : List Byte)
  /-- event of the transport: the host takes the submitted packet (R270). -/
  | hostTakesIn
  deriving DecidableEq, Repr

end Sys2Proof
end

