-- ==== Sys2Proof/WellFormed.lean ====
section
/-! DEFINITION. Which parameter records and which instructions are well formed: the constraints of 00_scope.md R7 and
the codes, types and recipients that a catch-all row of the opcode table may carry. -/

namespace Sys2Proof

/-- The five vendor IN codes (R103). -/
def Params.vendorInCodes (p : Params) : List Byte :=
  [p.vrReadConfig, p.vrChangeSpeed, p.vrChangeMaster, p.vrChangeMode, p.vrGetVersion]

/-- The three configuration strings fit below the checksum (R124). -/
def Params.stringsFit (p : Params) : Bool :=
  decide (p.cfgStr1.length + p.cfgStr2.length + p.cfgStr3.length ≤ 102)

/-- `FW_VERSION` is a non-empty list of ASCII bytes, none zero (R7). -/
def Params.versionOk (p : Params) : Bool :=
  !p.fwVersion.isEmpty && p.fwVersion.all (fun b => decide (0 < b.toNat) && decide (b.toNat < 128))

/-- The constraints of R7 and R103: `MAX_CHUNK ≤ 64`, the five IN codes pairwise distinct, the version string admitted,
the strings fit, and each descriptor set holds `NUM_STRINGS` strings (R38). -/
def Params.wf (p : Params) : Bool :=
  decide (p.maxChunk ≤ 64) && decide p.vendorInCodes.Nodup && p.versionOk && p.stringsFit
    && decide (p.desc.normal.strings.length = p.numStrings)
    && decide (p.desc.alternate.strings.length = p.numStrings)

/-- Standard IN codes with a row of their own (R157). -/
def standardInCodes : List Byte := [0x00, 0x06, 0x08, 0x0A, 0x0C]

/-- Standard OUT codes with a row of their own (R165). -/
def standardOutCodes : List Byte := [0x01, 0x03, 0x05, 0x07, 0x09, 0x0B]

/-- Descriptor types with a row of their own (R149). -/
def descriptorTypes : List Byte := [0x01, 0x02, 0x03, 0x06, 0x07]

/-- Well-formed instructions of a machine with the parameters `p`: a catch-all row carries a code, type or recipient
that no earlier row takes (R105), and a chunk is no longer than `MAX_CHUNK` (R269). -/
def wellFormed (p : Params) : Instr → Bool
  | .bbw _ => true
  | .bbr _ => true
  | .shw _ => true
  | .shr _ => true
  | .datw _ => true
  | .datr _ => true
  | .classAny => true
  | .reservedTypeAny => true
  | .start => true
  | .vendorOutOther code => decide (code ≠ p.vrStart)
  | .readConfig _ _ => true
  | .changeSpeed => true
  | .changeMaster => true
  | .changeMode => true
  | .getVersion => true
  | .vendorInOther code _ => decide (code ∉ p.vendorInCodes)
  | .getConfiguration => true
  | .getInterface => true
  | .getDescriptorDevice => true
  | .getDescriptorConfiguration => true
  | .getDescriptorString _ => true
  | .getDescriptorDeviceQualifier => true
  | .getDescriptorOtherSpeed => true
  | .getDescriptorOther type => decide (type ∉ descriptorTypes)
  | .getStatusDevice => true
  | .getStatusInterface => true
  | .getStatusEndpoint _ => true
  | .getStatusOther recipient => decide (3 ≤ recipient.toNat)
  | .synchFrame => true
  | .standardInOther code => decide (code ∉ standardInCodes)
  | .setConfiguration _ => true
  | .setInterface _ => true
  | .clearFeatureEndpoint _ _ => true
  | .setFeatureEndpoint _ _ => true
  | .clearFeatureDevice _ => true
  | .setFeatureDevice _ => true
  | .clearFeatureOther recipient => decide (recipient ≠ 0 ∧ recipient ≠ 2)
  | .setFeatureOther recipient => decide (recipient ≠ 0 ∧ recipient ≠ 2)
  | .setAddress => true
  | .setDescriptor => true
  | .standardOutOther code => decide (code ∉ standardOutCodes)
  | .setupStep => true
  | .ingest => true
  | .dataPacket => true
  | .keepalivePacket => true
  | .tick => true
  | .setupArrives _ => true
  | .chunkArrives chunk => decide (chunk.length ≤ p.maxChunk)
  | .hostTakesIn => true

end Sys2Proof
end

