-- ==== Sys2Proof/Decode.lean ====
section
/-! DEFINITION. Reading and writing encodings (30_encoding.md): the fields of a setup descriptor, the decoder of a
data-plane byte by mode, the decoder of a descriptor, the decoder of a byte string, the encoder, the pseudo-instructions,
and the ordered opcode table of R105 as data. -/

namespace Sys2Proof

/-! Fields of the setup descriptor (R95, R96). -/

/-- The descriptor as one 64-bit number, byte `k` at bits `8k+7 : 8k` (R95). -/
def SetupDesc.toBits (d : SetupDesc) : BitVec 64 :=
  d.wLengthH ++ d.wLengthL ++ d.wIndexH ++ d.wIndexL ++ d.wValueH ++ d.wValueL ++ d.bRequest ++ d.bmRequestType

/-- The descriptor read from a 64-bit number numbered as R95 numbers it. -/
def SetupDesc.ofBits (w : BitVec 64) : SetupDesc where
  bmRequestType := w.extractLsb' 0 8
  bRequest := w.extractLsb' 8 8
  wValueL := w.extractLsb' 16 8
  wValueH := w.extractLsb' 24 8
  wIndexL := w.extractLsb' 32 8
  wIndexH := w.extractLsb' 40 8
  wLengthL := w.extractLsb' 48 8
  wLengthH := w.extractLsb' 56 8

/-- The descriptor's eight bytes, in order. -/
def SetupDesc.bytes (d : SetupDesc) : List Byte :=
  [d.bmRequestType, d.bRequest, d.wValueL, d.wValueH, d.wIndexL, d.wIndexH, d.wLengthL, d.wLengthH]

/-- Direction bit: true is IN (R96). -/
def SetupDesc.dirIn (d : SetupDesc) : Bool := d.bmRequestType.getLsbD 7

/-- Type field, bits 6:5 (R96). -/
def SetupDesc.reqType (d : SetupDesc) : BitVec 2 := d.bmRequestType.extractLsb' 5 2

/-- Recipient field, bits 4:0 (R96). -/
def SetupDesc.recipient (d : SetupDesc) : BitVec 5 := d.bmRequestType.extractLsb' 0 5

/-- `wLength`, low byte first (R67, R95). -/
def SetupDesc.wLength (d : SetupDesc) : Half := d.wLengthH ++ d.wLengthL

/-! The data plane. -/

/-- A byte read in bit-bang mode: the top two bits select the command (R91, R104). -/
def decodeBitBang (b : Byte) : Instr :=
  if b.extractLsb' 6 2 = 0 then .bbw (b.extractLsb' 0 6)
  else if b.extractLsb' 6 2 = 1 then .bbr (b.extractLsb' 0 6)
  else if b.extractLsb' 6 2 = 2 then .shw (b.extractLsb' 0 6)
  else .shr (b.extractLsb' 0 6)

/-- A byte read in byte-shift mode: all eight bits are data (R93). -/
def decodeShift (writeOnly : Bool) (b : Byte) : Instr :=
  if writeOnly then .datw b else .datr b

/-- How a byte of the stream is read, given the mode state it meets (R94). -/
def decodeByte (count : Six) (writeOnly : Bool) (b : Byte) : Instr :=
  if count = 0 then decodeBitBang b else decodeShift writeOnly b

/-! The control plane. -/

/-- Vendor requests: direction, then code, in the order of R180. -/
def decodeVendor (p : Params) (d : SetupDesc) : Instr :=
  if d.dirIn then
    if d.bRequest = p.vrReadConfig then .readConfig d.wIndexL d.wLength
    else if d.bRequest = p.vrChangeSpeed then .changeSpeed
    else if d.bRequest = p.vrChangeMaster then .changeMaster
    else if d.bRequest = p.vrChangeMode then .changeMode
    else if d.bRequest = p.vrGetVersion then .getVersion
    else .vendorInOther d.bRequest d.wLength
  else if d.bRequest = p.vrStart then .start
  else .vendorOutOther d.bRequest

/-- GET_DESCRIPTOR: the type is `wValueH`, the index `wValueL` (R101, R143 to R149). -/
def decodeGetDescriptor (d : SetupDesc) : Instr :=
  if d.wValueH = 0x01 then .getDescriptorDevice
  else if d.wValueH = 0x02 then .getDescriptorConfiguration
  else if d.wValueH = 0x03 then .getDescriptorString d.wValueL
  else if d.wValueH = 0x06 then .getDescriptorDeviceQualifier
  else if d.wValueH = 0x07 then .getDescriptorOtherSpeed
  else .getDescriptorOther d.wValueH

/-- GET_STATUS by recipient (R150, R151, R154, R155). -/
def decodeGetStatus (d : SetupDesc) : Instr :=
  if d.recipient = 0 then .getStatusDevice
  else if d.recipient = 1 then .getStatusInterface
  else if d.recipient = 2 then .getStatusEndpoint d.wIndexL
  else .getStatusOther d.recipient

/-- Standard requests, IN direction (R100, R141 to R157). -/
def decodeStandardIn (d : SetupDesc) : Instr :=
  if d.bRequest = 0x08 then .getConfiguration
  else if d.bRequest = 0x0A then .getInterface
  else if d.bRequest = 0x06 then decodeGetDescriptor d
  else if d.bRequest = 0x00 then decodeGetStatus d
  else if d.bRequest = 0x0C then .synchFrame
  else .standardInOther d.bRequest

/-- CLEAR_FEATURE by recipient (R158, R160, R162). -/
def decodeClearFeature (d : SetupDesc) : Instr :=
  if d.recipient = 2 then .clearFeatureEndpoint d.wValueL d.wIndexL
  else if d.recipient = 0 then .clearFeatureDevice d.wValueL
  else .clearFeatureOther d.recipient

/-- SET_FEATURE by recipient (R159, R161, R162). -/
def decodeSetFeature (d : SetupDesc) : Instr :=
  if d.recipient = 2 then .setFeatureEndpoint d.wValueL d.wIndexL
  else if d.recipient = 0 then .setFeatureDevice d.wValueL
  else .setFeatureOther d.recipient

/-- Standard requests, OUT direction (R100, R152, R153, R158 to R165). -/
def decodeStandardOut (d : SetupDesc) : Instr :=
  if d.bRequest = 0x09 then .setConfiguration d.wValueL
  else if d.bRequest = 0x0B then .setInterface d.wValueL
  else if d.bRequest = 0x01 then decodeClearFeature d
  else if d.bRequest = 0x03 then decodeSetFeature d
  else if d.bRequest = 0x05 then .setAddress
  else if d.bRequest = 0x07 then .setDescriptor
  else .standardOutOther d.bRequest

/-- The request a descriptor stands for: type field, then direction, then code (R136). Total: R168. -/
def decodeSetup (p : Params) (d : SetupDesc) : Instr :=
  if d.reqType = 1 then .classAny
  else if d.reqType = 3 then .reservedTypeAny
  else if d.reqType = 2 then decodeVendor p d
  else if d.dirIn then decodeStandardIn d
  else decodeStandardOut d

/-! Byte strings. -/

/-- Where a byte string is read: the bulk-OUT stream, in the mode state it meets (R94), or the setup phase (R95). -/
inductive Reading where
  | stream (count : Six) (writeOnly : Bool)
  | setup
  deriving DecidableEq, Repr

/-- Why a byte string is no instruction: there are no illegal encodings (R106, R107), only strings too short. -/
inductive DecodeError where
  /-- The bulk-OUT stream holds no further byte. -/
  | endOfStream
  /-- A setup phase has exactly eight bytes (R90); fewer were given. -/
  | shortDescriptor
  deriving DecidableEq, Repr

/-- The decoder, total on any bytes: the instruction and the bytes after it, or the reason there is none. -/
def decode (p : Params) : Reading → List Byte → Except DecodeError (Instr × List Byte)
  | .stream count writeOnly, b :: rest => .ok (decodeByte count writeOnly b, rest)
  | .stream _ _, [] => .error .endOfStream
  | .setup, b0 :: b1 :: b2 :: b3 :: b4 :: b5 :: b6 :: b7 :: rest =>
      .ok (decodeSetup p ⟨b0, b1, b2, b3, b4, b5, b6, b7⟩, rest)
  | .setup, _ => .error .shortDescriptor

/-! The encoder. -/

/-- A request-type byte from direction, type and recipient (R96). -/
def requestType (dirIn : Bool) (type : BitVec 2) (recipient : BitVec 5) : Byte :=
  BitVec.ofBool dirIn ++ type ++ recipient

/-- A descriptor with the fields a rule names and zeros elsewhere (R108). -/
def descOf (bmRequestType bRequest : Byte) (valueL valueH indexL : Byte := 0) (length : Half := 0) : SetupDesc where
  bmRequestType := bmRequestType
  bRequest := bRequest
  wValueL := valueL
  wValueH := valueH
  wIndexL := indexL
  wIndexH := 0
  wLengthL := length.extractLsb' 0 8
  wLengthH := length.extractLsb' 8 8

/-- The byte of a data-plane command (R104, R110); none for the other rows. -/
def encodeByte : Instr → Option Byte
  | .bbw l => some ((0 : BitVec 2) ++ l)
  | .bbr l => some ((1 : BitVec 2) ++ l)
  | .shw n => some ((2 : BitVec 2) ++ n)
  | .shr n => some ((3 : BitVec 2) ++ n)
  | .datw d => some d
  | .datr d => some d
  | _ => none

/-- A descriptor of a control request (R95 to R103); none for the other rows. -/
def encodeSetup (p : Params) : Instr → Option SetupDesc
  | .classAny => some (descOf (requestType false 1 0) 0)
  | .reservedTypeAny => some (descOf (requestType false 3 0) 0)
  | .start => some (descOf (requestType false 2 0) p.vrStart)
  | .vendorOutOther code => some (descOf (requestType false 2 0) code)
  | .readConfig indexL length =>
      some (descOf (requestType true 2 0) p.vrReadConfig (indexL := indexL) (length := length))
  | .changeSpeed => some (descOf (requestType true 2 0) p.vrChangeSpeed)
  | .changeMaster => some (descOf (requestType true 2 0) p.vrChangeMaster)
  | .changeMode => some (descOf (requestType true 2 0) p.vrChangeMode)
  | .getVersion => some (descOf (requestType true 2 0) p.vrGetVersion)
  | .vendorInOther code length => some (descOf (requestType true 2 0) code (length := length))
  | .getConfiguration => some (descOf (requestType true 0 0) 0x08)
  | .getInterface => some (descOf (requestType true 0 1) 0x0A)
  | .getDescriptorDevice => some (descOf (requestType true 0 0) 0x06 (valueH := 0x01))
  | .getDescriptorConfiguration => some (descOf (requestType true 0 0) 0x06 (valueH := 0x02))
  | .getDescriptorString index => some (descOf (requestType true 0 0) 0x06 (valueL := index) (valueH := 0x03))
  | .getDescriptorDeviceQualifier => some (descOf (requestType true 0 0) 0x06 (valueH := 0x06))
  | .getDescriptorOtherSpeed => some (descOf (requestType true 0 0) 0x06 (valueH := 0x07))
  | .getDescriptorOther type => some (descOf (requestType true 0 0) 0x06 (valueH := type))
  | .getStatusDevice => some (descOf (requestType true 0 0) 0x00)
  | .getStatusInterface => some (descOf (requestType true 0 1) 0x00)
  | .getStatusEndpoint a => some (descOf (requestType true 0 2) 0x00 (indexL := a))
  | .getStatusOther recipient => some (descOf (requestType true 0 recipient) 0x00)
  | .synchFrame => some (descOf (requestType true 0 2) 0x0C)
  | .standardInOther code => some (descOf (requestType true 0 0) code)
  | .setConfiguration value => some (descOf (requestType false 0 0) 0x09 (valueL := value))
  | .setInterface value => some (descOf (requestType false 0 1) 0x0B (valueL := value))
  | .clearFeatureEndpoint selector a =>
      some (descOf (requestType false 0 2) 0x01 (valueL := selector) (indexL := a))
  | .setFeatureEndpoint selector a =>
      some (descOf (requestType false 0 2) 0x03 (valueL := selector) (indexL := a))
  | .clearFeatureDevice selector => some (descOf (requestType false 0 0) 0x01 (valueL := selector))
  | .setFeatureDevice selector => some (descOf (requestType false 0 0) 0x03 (valueL := selector))
  | .clearFeatureOther recipient => some (descOf (requestType false 0 recipient) 0x01)
  | .setFeatureOther recipient => some (descOf (requestType false 0 recipient) 0x03)
  | .setAddress => some (descOf (requestType false 0 0) 0x05)
  | .setDescriptor => some (descOf (requestType false 0 0) 0x07)
  | .standardOutOther code => some (descOf (requestType false 0 0) code)
  | _ => none

/-- The bytes of an instruction: one for a data-plane command, eight for a request, none for an event, which has no bit
pattern (R90, R112). -/
def encode (p : Params) (i : Instr) : Option (List Byte) :=
  match encodeByte i with
  | some b => some [b]
  | none => (encodeSetup p i).map SetupDesc.bytes

/-- Whether a reading is one in which the instruction's bytes are read as that instruction: the mode of a data-plane
command, the setup phase of a request (R91, R93, R94). -/
def readsAs : Instr → Reading → Bool
  | .bbw _, .stream count _ => decide (count = 0)
  | .bbr _, .stream count _ => decide (count = 0)
  | .shw _, .stream count _ => decide (count = 0)
  | .shr _, .stream count _ => decide (count = 0)
  | .datw _, .stream count writeOnly => decide (count ≠ 0) && writeOnly
  | .datr _, .stream count writeOnly => decide (count ≠ 0) && !writeOnly
  | i, .setup => (encodeByte i).isNone
  | _, .stream _ _ => false

/-! Pseudo-instructions (R111): byte sequences. -/

/-- `NOP` is `SHW 0`. -/
def pseudoNop : List Byte := [0x80]

/-- `PULSE L`: one clock pulse with the other lines at `L`. -/
def pseudoPulse (l : Six) : List Byte := [(0 : BitVec 2) ++ (l &&& 0x3E), (0 : BitVec 2) ++ (l ||| 0x01)]

/-- `PULSER L`: one clock pulse, sampling after the rising level is set. -/
def pseudoPulseR (l : Six) : List Byte := [(0 : BitVec 2) ++ (l &&& 0x3E), (1 : BitVec 2) ++ (l ||| 0x01)]

/-- `SHIFTW ds`: the bytes `ds` are shifted out. -/
def pseudoShiftW (ds : List Byte) : List Byte := ((2 : BitVec 2) ++ BitVec.ofNat 6 ds.length : Byte) :: ds

/-- `SHIFTR ds`: the bytes `ds` are shifted out, and as many are read back. -/
def pseudoShiftR (ds : List Byte) : List Byte := ((3 : BitVec 2) ++ BitVec.ofNat 6 ds.length : Byte) :: ds

/-! The opcode table as data (R105). -/

/-- The name of an instruction's row in spec/opcode_table.json. -/
def mnemonic : Instr → String
  | .bbw _ => "BBW"
  | .bbr _ => "BBR"
  | .shw _ => "SHW"
  | .shr _ => "SHR"
  | .datw _ => "DATW"
  | .datr _ => "DATR"
  | .classAny => "CLASS_ANY"
  | .reservedTypeAny => "RESERVED_TYPE_ANY"
  | .start => "START"
  | .vendorOutOther _ => "VENDOR_OUT_OTHER"
  | .readConfig _ _ => "READ_CONFIG"
  | .changeSpeed => "CHANGE_SPEED"
  | .changeMaster => "CHANGE_MASTER"
  | .changeMode => "CHANGE_MODE"
  | .getVersion => "GET_VERSION"
  | .vendorInOther _ _ => "VENDOR_IN_OTHER"
  | .getConfiguration => "GET_CONFIGURATION"
  | .getInterface => "GET_INTERFACE"
  | .getDescriptorDevice => "GET_DESCRIPTOR_DEVICE"
  | .getDescriptorConfiguration => "GET_DESCRIPTOR_CONFIGURATION"
  | .getDescriptorString _ => "GET_DESCRIPTOR_STRING"
  | .getDescriptorDeviceQualifier => "GET_DESCRIPTOR_DEVICE_QUALIFIER"
  | .getDescriptorOtherSpeed => "GET_DESCRIPTOR_OTHER_SPEED"
  | .getDescriptorOther _ => "GET_DESCRIPTOR_OTHER"
  | .getStatusDevice => "GET_STATUS_DEVICE"
  | .getStatusInterface => "GET_STATUS_INTERFACE"
  | .getStatusEndpoint _ => "GET_STATUS_ENDPOINT"
  | .getStatusOther _ => "GET_STATUS_OTHER"
  | .synchFrame => "SYNCH_FRAME"
  | .standardInOther _ => "STANDARD_IN_OTHER"
  | .setConfiguration _ => "SET_CONFIGURATION"
  | .setInterface _ => "SET_INTERFACE"
  | .clearFeatureEndpoint _ _ => "CLEAR_FEATURE_ENDPOINT"
  | .setFeatureEndpoint _ _ => "SET_FEATURE_ENDPOINT"
  | .clearFeatureDevice _ => "CLEAR_FEATURE_DEVICE"
  | .setFeatureDevice _ => "SET_FEATURE_DEVICE"
  | .clearFeatureOther _ => "CLEAR_FEATURE_OTHER"
  | .setFeatureOther _ => "SET_FEATURE_OTHER"
  | .setAddress => "SET_ADDRESS"
  | .setDescriptor => "SET_DESCRIPTOR"
  | .standardOutOther _ => "STANDARD_OUT_OTHER"
  | .setupStep => "SETUP_STEP"
  | .ingest => "INGEST"
  | .dataPacket => "DATA_PACKET"
  | .keepalivePacket => "KEEPALIVE_PACKET"
  | .tick => "TICK"
  | .setupArrives _ => "SETUP_ARRIVES"
  | .chunkArrives _ => "CHUNK_ARRIVES"
  | .hostTakesIn => "HOST_TAKES_IN"

/-- A row of format `SETUP`: mask, match and mnemonic, over the 64-bit number of R95. -/
abbrev SetupRow := BitVec 64 × BitVec 64 × String

/-- The match of a row whose request code is a parameter (R112). -/
def codeMatch (base : BitVec 64) (code : Byte) : BitVec 64 := base ||| (code.setWidth 64 <<< 8)

/-- Rows of the class, reserved and vendor types, in the table's order. -/
def setupRowsVendor (p : Params) : List SetupRow :=
  [(0x60, 0x20, "CLASS_ANY"),
   (0x60, 0x60, "RESERVED_TYPE_ANY"),
   (0xFFE0, codeMatch 0x40 p.vrStart, "START"),
   (0xE0, 0x40, "VENDOR_OUT_OTHER"),
   (0xFFE0, codeMatch 0xC0 p.vrReadConfig, "READ_CONFIG"),
   (0xFFE0, codeMatch 0xC0 p.vrChangeSpeed, "CHANGE_SPEED"),
   (0xFFE0, codeMatch 0xC0 p.vrChangeMaster, "CHANGE_MASTER"),
   (0xFFE0, codeMatch 0xC0 p.vrChangeMode, "CHANGE_MODE"),
   (0xFFE0, codeMatch 0xC0 p.vrGetVersion, "GET_VERSION"),
   (0xE0, 0xC0, "VENDOR_IN_OTHER")]

/-- Rows of the standard IN requests, in the table's order. -/
def setupRowsIn : List SetupRow :=
  [(0xFFE0, 0x0880, "GET_CONFIGURATION"),
   (0xFFE0, 0x0A80, "GET_INTERFACE"),
   (0xFF00FFE0, 0x01000680, "GET_DESCRIPTOR_DEVICE"),
   (0xFF00FFE0, 0x02000680, "GET_DESCRIPTOR_CONFIGURATION"),
   (0xFF00FFE0, 0x03000680, "GET_DESCRIPTOR_STRING"),
   (0xFF00FFE0, 0x06000680, "GET_DESCRIPTOR_DEVICE_QUALIFIER"),
   (0xFF00FFE0, 0x07000680, "GET_DESCRIPTOR_OTHER_SPEED"),
   (0xFFE0, 0x0680, "GET_DESCRIPTOR_OTHER"),
   (0xFFFF, 0x0080, "GET_STATUS_DEVICE"),
   (0xFFFF, 0x0081, "GET_STATUS_INTERFACE"),
   (0xFFFF, 0x0082, "GET_STATUS_ENDPOINT"),
   (0xFFE0, 0x0080, "GET_STATUS_OTHER"),
   (0xFFE0, 0x0C80, "SYNCH_FRAME"),
   (0xE0, 0x80, "STANDARD_IN_OTHER")]

/-- Rows of the standard OUT requests, in the table's order. -/
def setupRowsOut : List SetupRow :=
  [(0xFFE0, 0x0900, "SET_CONFIGURATION"),
   (0xFFE0, 0x0B00, "SET_INTERFACE"),
   (0xFFFF, 0x0102, "CLEAR_FEATURE_ENDPOINT"),
   (0xFFFF, 0x0302, "SET_FEATURE_ENDPOINT"),
   (0xFFFF, 0x0100, "CLEAR_FEATURE_DEVICE"),
   (0xFFFF, 0x0300, "SET_FEATURE_DEVICE"),
   (0xFFE0, 0x0100, "CLEAR_FEATURE_OTHER"),
   (0xFFE0, 0x0300, "SET_FEATURE_OTHER"),
   (0xFFE0, 0x0500, "SET_ADDRESS"),
   (0xFFE0, 0x0700, "SET_DESCRIPTOR"),
   (0xE0, 0x00, "STANDARD_OUT_OTHER")]

/-- The 35 rows of format `SETUP`, in the order in which they are matched (R105). -/
def setupRows (p : Params) : List SetupRow := setupRowsVendor p ++ setupRowsIn ++ setupRowsOut

/-- The mnemonic of the first row that a descriptor's number matches (R105). -/
def firstMatch (rows : List SetupRow) (w : BitVec 64) : Option String :=
  (rows.find? (fun r => w &&& r.1 == r.2.1)).map (fun r => r.2.2)

/-! What the host asks of the decoder. -/

/-- The instruction read from a word numbered as the opcode table numbers it. Up to 8 bits it is a byte of the bulk-OUT
stream, read in bit-bang mode, the mode after reset (R292); up to 64 bits a setup descriptor whose bits above `nbits` are
zero, read with the parameters of the machine at reset. No bits is no instruction (an event has no bit pattern, R112).
DESIGN CHOICE (log 17), safe. -/
def decodeTableWord (nbits w : Nat) : Option Instr :=
  if nbits = 0 then none
  else if nbits ≤ 8 then some (decodeByte 0 true (BitVec.ofNat 8 (w % 2 ^ nbits)))
  else if nbits ≤ 64 then some (decodeSetup Config.params (SetupDesc.ofBits (BitVec.ofNat 64 (w % 2 ^ nbits))))
  else none

end Sys2Proof
end

