-- ==== Sys2Proof/Machine/ConfigStore.lean ====
section
/-! DEFINITION. The Configuration Store (40_config_store.md): layout and checksum of the 128-byte block, the byte read,
and the descriptor source. -/

namespace Sys2Proof.Machine

/-- What raises `OutOfRange` (R263): a block offset, a string index or an endpoint outside its bounds. It never leaves the
dispatcher: it is resolved as a stall at the boundary. -/
inductive OutOfRange where
  | offset
  | stringIndex
  | endpoint
  deriving DecidableEq, Repr

/-- A 16-bit value rotated left by one (R9). -/
def rol16 (v : Half) : Half := (v <<< 1) ||| (v >>> 15)

/-- One pair of bytes, even offset first, into the accumulator (R123). -/
def checksumPair (acc : Half) (even odd : Byte) : Half :=
  rol16 (acc ^^^ ((odd.setWidth 16 <<< 8) ^^^ even.setWidth 16))

/-- The rotate-XOR checksum over completed pairs of bytes (R123). -/
def checksum (acc : Half) : List Byte → Half
  | even :: odd :: rest => checksum (checksumPair acc even odd) rest
  | _ => acc

/-- The string table: three (offset, length) pairs, offsets a running sum from `STR_BASE + 20` (R122). -/
def stringTable (p : Params) : List Byte :=
  let off1 : Byte := p.strBase + 20
  let len1 : Byte := BitVec.ofNat 8 p.cfgStr1.length
  let len2 : Byte := BitVec.ofNat 8 p.cfgStr2.length
  let len3 : Byte := BitVec.ofNat 8 p.cfgStr3.length
  [off1, len1, off1 + len1, len2, off1 + len1 + len2, len3]

/-- The fields before the padding, in their order (R121). -/
def cfgFields (p : Params) : List Byte :=
  p.cfgReserved.toList ++ p.cfgIdentity.toList ++ p.cfgPower.toList ++ p.cfgMarker.toList ++ p.cfgUsbVer.toList
    ++ stringTable p ++ p.cfgStr1 ++ p.cfgStr2 ++ p.cfgStr3 ++ p.cfgStrOrder.toList

/-- A list filled with zeros up to length `n` (and cut there, which no well-formed block needs). -/
def zeroFill (n : Nat) (l : List Byte) : List Byte := (l ++ List.replicate n 0).take n

/-- Bytes 0 to 125 of the block (R121). -/
def cfgData (p : Params) : List Byte := zeroFill Config.cfgDataEnd (cfgFields p)

/-- All 128 bytes: the data and the checksum, low byte first (R125). -/
def cfgBytes (p : Params) : List Byte :=
  let sum := checksum p.cksumSeed (cfgData p)
  cfgData p ++ [sum.extractLsb' 0 8, sum.extractLsb' 8 8]

theorem zeroFill_length (n : Nat) (l : List Byte) : (zeroFill n l).length = n := by
  simp [zeroFill]

theorem cfgBytes_length (p : Params) : (cfgBytes p).length = 128 := by
  simp [cfgBytes, cfgData, zeroFill_length, Config.cfgDataEnd]

/-- The block as a vector of 128 bytes. -/
def cfgBlock (p : Params) : Vector Byte 128 := ⟨⟨cfgBytes p⟩, cfgBytes_length p⟩

/-- `Cfg.build()` (R120). It refuses strings that do not fit (R124, U17). -/
def cfgBuild (p : Params) : Option (Vector Byte 128) :=
  if p.stringsFit then some (cfgBlock p) else none

/-- `Cfg.byte_at(o)`: fails with `OutOfRange` from offset 128 on (R127). -/
def cfgByteAt (block : Vector Byte 128) (o : Nat) : Except OutOfRange Byte :=
  if h : o < 128 then .ok block[o] else .error .offset

/-- The kinds of descriptor that GET_DESCRIPTOR names (R143). -/
inductive DescKind where
  | device
  | deviceQualifier
  | configuration
  | otherSpeed
  | string
  deriving DecidableEq, Repr

/-- The descriptor set that `SpeedMode` selects (R38). -/
def descSetFor (desc : Desc) (speedMode : Bool) : DescSet := if speedMode then desc.alternate else desc.normal

/-- String `index` of a set: `OutOfRange` from `NUM_STRINGS` on (R148). A table shorter than `NUM_STRINGS` belongs to no
well-formed machine; its missing entries are out of range too (log 22, safe). -/
def descString (numStrings : Nat) (set : DescSet) (index : Nat) : Except OutOfRange (List Byte) :=
  if numStrings ≤ index then .error .stringIndex
  else
    match set.strings[index]? with
    | some bytes => .ok bytes
    | none => .error .stringIndex

/-- `Cfg.descriptor(kind, index)` (R56). -/
def cfgDescriptor (numStrings : Nat) (set : DescSet) (kind : DescKind) (index : Nat) : Except OutOfRange (List Byte) :=
  match kind with
  | .device => .ok set.device
  | .deviceQualifier => .ok set.deviceQualifier
  | .configuration => .ok set.configuration
  | .otherSpeed => .ok set.otherSpeed
  | .string => descString numStrings set index

end Sys2Proof.Machine
end

