-- ==== Sys2Proof/Machine/State.lean ====
section
/-! DEFINITION. The state of the machine as plain data: every register of 10_state.md R20, the collaborator state that
rules read or write (R41 to R56), what an observer sees (R57), and the model's own fields; why a step can stop; and the
state after reset (R59). -/

namespace Sys2Proof.Machine

/-- A memory: (address, byte) pairs, addresses strictly rising; an unlisted address holds no value (log 6, 20). -/
abbrev Memory := List Host.Cell

/-- The calls to the collaborators (R13, R43 to R56), each with its arguments and its answer; one constructor per
operation. R57 calls some of them observable: `observable` of Safety.lean. -/
inductive Call where
  /-- `Cfg.build()` answering the block (R56, R120). -/
  | cfgBuild (block : Vector Byte 128)
  /-- `Cfg.byte_at(o)` answering a byte, or failing with `OutOfRange` (R56, R127). -/
  | byteAt (o : Nat) (answer : Option Byte)
  /-- `Cfg.descriptor(kind, index)` answering the descriptor (R56). R148 tests the index before the call, so a call that is
  made never fails. -/
  | descriptor (kind : DescKind) (index : Nat) (answer : List Byte)
  /-- `Line.set_lines(v)` (R43). -/
  | setLines (v : Six)
  /-- `Line.get_state()` answering `p` (R44). -/
  | getState (p : Bool)
  /-- `Line.shift_out(b)` (R45). -/
  | shiftOut (b : Bool)
  /-- `Line.shift_in_out(b)` answering `a` (R46). -/
  | shiftInOut (b : Bool) (a : Bool)
  /-- `Xport.out_count()` answering the length of the oldest waiting chunk, or none (R47). -/
  | outCount (answer : Option Nat)
  /-- `Xport.out_take()` answering that chunk (R48). -/
  | outTake (answer : List Byte)
  /-- `Xport.in_busy()` answering `InBusy` (R49). -/
  | inBusy (answer : Bool)
  /-- `Xport.in_submit(P)` (R50). -/
  | inSubmit (packet : List Byte)
  /-- `Xport.stage_reply(bytes)` (R51). -/
  | stageReply (bytes : List Byte)
  /-- `Xport.stall()` (R52). -/
  | stall
  /-- `Xport.ack_handshake()` (R53). -/
  | ackHandshake
  /-- `Xport.ep_stall_get(a)` answering `EpStall[a]` (R54). -/
  | epStallGet (a : Byte) (answer : Bool)
  /-- `Xport.ep_stall_set(a, b)` (R54). -/
  | epStallSet (a : Byte) (b : Bool)
  /-- `Xport.ep_toggle_reset(a)` (R54). -/
  | epToggleReset (a : Byte)
  /-- `Xport.renumerate()` (R55). -/
  | renumerate
  deriving DecidableEq, Repr

/-- The data phase of the current control request (R51, R52): nothing staged, a staged reply (and whether the transport
will deliver it, which only a renumeration leaves open, log 21), or the stall. -/
inductive Ep0 where
  | empty
  | staged (bytes : List Byte) (delivered : Bool)
  | stalled
  deriving DecidableEq, Repr

/-- What the host sees of a completed control transfer (R51, R283): data clipped to the requested length, the stall, or
nothing when the reply was lost in a renumeration. -/
inductive ControlResult where
  | data (bytes : List Byte)
  | stall
  | lost
  deriving DecidableEq, Repr

/-- Which part of the iteration the core runs next (R240, R242). DESIGN CHOICE (log 16), safe. -/
inductive Phase where
  | setup
  | ingest
  | emit
  deriving DecidableEq, Repr

/-- Whose turn it is: the core's, or an event of another agent (R244). DESIGN CHOICE (log 9), safe. -/
inductive Turn where
  | core
  | tick
  | setupArrives (d : SetupDesc)
  | chunkArrives (chunk : List Byte)
  | hostTakesIn
  deriving DecidableEq, Repr

/-- Why the machine stops with a fault. -/
inductive Fault where
  /-- `RingOverflow` (R224, U1): raised by an append that finds `Pending = 256`, which only a chunk longer than
  `MAX_CHUNK`, or `MAX_CHUNK > 64`, can bring about. Safe: the model stops where the spec gives no behaviour. -/
  | ringOverflow
  deriving DecidableEq, Repr

/-- Why an instruction is refused. -/
inductive Refusal where
  /-- Raised by an arm of exec that has no meaning yet. Safe. -/
  | notModelled (mnemonic : String)
  /-- Raised by the meaning of a data-plane command executed in a mode in which no byte is read as that command (R91,
  R93, R104); the loop never does this, since it decodes each byte in the mode it meets. Safe (log 14). -/
  | notInThisMode
  /-- Raised by SETUP_ARRIVES while a setup is pending: the event is not enabled then (R268, U10). Safe (log 14). -/
  | setupAlreadyPending
  /-- Raised by HOST_TAKES_IN while no packet is submitted: the event is not enabled then (R270). Safe (log 14). -/
  | noPacketSubmitted
  /-- Raised by the inner interpreter on an event, which is no command of a stream; no decoder yields one. Safe
  (log 14). -/
  | notACommand
  deriving DecidableEq, Repr

/-- The state of the machine. -/
structure State where
  /-- The parameters of R7; no step changes them (log 1). -/
  params : Params
  /-- `Running` (R21). -/
  running : Bool
  /-- `WriteOnly` (R22). -/
  writeOnly : Bool
  /-- `PendingShiftCount`, 0..63 (R23). -/
  pendingShiftCount : Six
  /-- `Ring` (R24, R61). Bytes outside the pending window: never written, log 6; already taken, log 29. -/
  ring : Memory
  /-- `RdCursor` (R25). -/
  rdCursor : Byte
  /-- `Pending`, 0..256 (R26). -/
  pending : Nat
  /-- `TickFlag` (R28). -/
  tickFlag : Bool
  /-- `SetupPending` (R30). -/
  setupPending : Bool
  /-- `SetupDesc` (R31). -/
  setupDesc : SetupDesc
  /-- `CurConfig` (R32). -/
  curConfig : Byte
  /-- `CurAlt` (R33). -/
  curAlt : Byte
  /-- `SpeedMode` (R34). -/
  speedMode : Bool
  /-- `JtagMaster` (R35). -/
  jtagMaster : Bool
  /-- `SyncMode` (R36). -/
  syncMode : Bool
  /-- `ConfigBlock` (R37, R62). -/
  configBlock : Vector Byte 128
  /-- `Desc` (R38). -/
  desc : Desc
  /-- `pc`, the chunk cursor (R39). -/
  pc : Nat
  /-- `OUTCHUNK`, the chunk being ingested (R63). -/
  outChunk : List Byte
  /-- The transport's queue of waiting chunks, oldest first (R47, R48). -/
  outQueue : List (List Byte)
  /-- `InBusy` (R41, R49). -/
  inBusy : Bool
  /-- `INPKT`, the submitted packet that the transport holds (R50, R64). -/
  inPkt : Option (List Byte)
  /-- `EP0REPLY` or the stall of the current control request (R65). -/
  ep0 : Ep0
  /-- `EpStall`: the entries written since power-up or the last renumeration, by address (R41, R54); every other address
  holds a free value (`epStalled` of Ops.lean). -/
  epStall : List (Nat × Bool)
  /-- The data toggles reset since power-up or the last renumeration, by address (R41, R54); every other address holds a
  free value (`epToggleOf` of Ops.lean). -/
  epToggle : List (Nat × DataToggle)
  /-- Every call made to a collaborator, in order (R13, R57, log 12). -/
  trace : List Call
  /-- The packets the host has taken, in order (R50, R270, log 12). -/
  hostIn : List (List Byte)
  /-- The results of the control transfers as the host saw them, in order (R51, R283, log 12). -/
  hostCtl : List ControlResult
  /-- The model's own: which part of the iteration is next (log 16). -/
  phase : Phase
  /-- The model's own: who moves next; when empty, the core (log 9). -/
  turns : List Turn
  /-- The model's own: the line driver's answers still to come; when empty, free values (log 10). -/
  lineIn : List Bool
  /-- The model's own: how many free line answers were drawn (log 10). -/
  draws : Nat
  /-- The model's own: how many renumerations there were (log 11). -/
  renums : Nat
  deriving DecidableEq, Repr

/-- The machine right after reset (R59). The one call of the initialisation is `Cfg.build()` (R291, R56). -/
def State.reset : State where
  params := Config.params
  running := false
  writeOnly := true
  pendingShiftCount := 0
  ring := []
  rdCursor := 0
  pending := 0
  tickFlag := Config.resetTickFlag
  setupPending := false
  setupDesc := ⟨0, 0, 0, 0, 0, 0, 0, 0⟩
  curConfig := 0
  curAlt := 0
  speedMode := Config.params.resetSpeedMode
  jtagMaster := Config.params.resetJtagMaster
  syncMode := Config.params.resetSyncMode
  configBlock := cfgBlock Config.params
  desc := Config.params.desc
  pc := 0
  outChunk := []
  outQueue := []
  inBusy := false
  inPkt := none
  ep0 := .empty
  epStall := []
  epToggle := []
  trace := [.cfgBuild (cfgBlock Config.params)]
  hostIn := []
  hostCtl := []
  phase := .setup
  turns := []
  lineIn := []
  draws := 0
  renums := 0

end Sys2Proof.Machine
end

