-- ==== Sys2Proof/Machine/Ops.lean ====
section
/-! DEFINITION. The named operations over the state: sparse tables and memory, the ring (44_packet_framer.md), the Line
Interface and the transport (10_state.md R43 to R55), and taking the one exception, `ProtocolStall` (60_exceptions.md
R262, R274). There is no return from an exception (R275): the dispatcher goes on to acknowledge the handshake. -/

namespace Sys2Proof.Machine

/-- The outcome of a step of this machine. -/
abbrev Out := Host.Outcome State Fault Refusal

/-- Go on from a next state; a fault or a refusal stays. -/
def andThen (o : Out) (f : State → Out) : Out :=
  match o with
  | .next s => f s
  | .fault r => .fault r
  | .refused r => .refused r

/-! Sparse tables: (address, value) pairs with strictly rising addresses. -/

/-- The value listed at an address. -/
def sparseGet {α : Type} (table : List (Nat × α)) (a : Nat) : Option α :=
  match table with
  | [] => none
  | (k, v) :: rest => if k = a then some v else sparseGet rest a

/-- List a value at an address, in place of the one listed there. -/
def sparseSet {α : Type} (table : List (Nat × α)) (a : Nat) (v : α) : List (Nat × α) :=
  match table with
  | [] => [(a, v)]
  | (k, w) :: rest => if a < k then (a, v) :: (k, w) :: rest else if k = a then (a, v) :: rest else (k, w) :: sparseSet rest a v

/-- Whether the addresses of a table rise strictly. -/
def sparseRising {α : Type} (table : List (Nat × α)) : Bool :=
  match table with
  | [] => true
  | (k, _) :: rest => rest.all (fun e => decide (k < e.1)) && sparseRising rest

/-! Memory: the space RING (R61, log 6, 20). -/

/-- What a memory holds at an address: no value where nothing has written. -/
def Memory.read (m : Memory) (a : Nat) : Option Byte := sparseGet m a

/-- A byte written at an address. -/
def Memory.write (m : Memory) (a : Nat) (v : Byte) : Memory := sparseSet m a v

/-- The canonical form: addresses of the space (0 to 255), strictly rising. An unlisted address holds no value, so no
entry can equal what it reads as. -/
def Memory.wf (m : Memory) : Bool := sparseRising m && m.all (fun e => decide (e.1 < Config.cap))

/-- `MemRead(RING, a, 1)`, the address taken `mod 256` (R11, R61). A byte that nothing has written is any value (U3,
log 6); one that has left the pending window reads as last written (DESIGN CHOICE, log 29, unsafe). -/
def ringRead (s : State) (a : Nat) : Byte :=
  (s.ring.read (a % Config.cap)).getD (Config.ringAtReset (a % Config.cap))

/-- `WrPos`, where the next byte is appended (R27). -/
def wrPos (s : State) : Nat := (s.rdCursor.toNat + s.pending) % Config.cap

/-- The pending bytes from the `k`-th on, `n` of them, oldest first; a run may cross from 255 to 0 (R61, R226). -/
def ringRun (s : State) (n : Nat) : List Byte :=
  (List.range n).map (fun k => ringRead s (s.rdCursor.toNat + k))

/-- `ring_append(v)` (R223). An append to a full ring is a fault of the model (R224). -/
def ringAppend (v : Byte) (s : State) : Out :=
  if s.pending < Config.cap then
    .next { s with ring := s.ring.write (wrPos s) v, pending := s.pending + 1 }
  else .fault .ringOverflow

/-- Outbound assembly takes `n` bytes: the cursor advances `mod 256`, the count falls (R226). DESIGN CHOICE (log 29), unsafe:
the bytes taken keep their last written value, where R24 says that a byte outside the pending window holds no value and
U3 that it is any value. No rule, and no instruction of the model, reads one before it is written again. -/
def ringTake (n : Nat) (s : State) : State :=
  { s with rdCursor := s.rdCursor + BitVec.ofNat 8 n, pending := s.pending - n }

/-! Calls to the collaborators. -/

/-- A call is made: it is one event of the run (R13). -/
def call (c : Call) (s : State) : State := { s with trace := s.trace ++ [c] }

/-- The line driver's next answer: the scripted one, else a free value (U8, log 10). -/
def lineAnswer (s : State) : Bool × State :=
  match s.lineIn with
  | a :: rest => (a, { s with lineIn := rest })
  | [] => (Config.lineSample s.draws, { s with draws := s.draws + 1 })

/-- `Line.set_lines(v)` (R43). -/
def lineSetLines (v : Six) (s : State) : State := call (.setLines v) s

/-- `Line.get_state()` (R44). -/
def lineGetState (s : State) : Bool × State :=
  let answer := lineAnswer s
  (answer.1, call (.getState answer.1) answer.2)

/-- `Line.shift_out(b)` (R45). -/
def lineShiftOut (b : Bool) (s : State) : State := call (.shiftOut b) s

/-- `Line.shift_in_out(b)` (R46). -/
def lineShiftInOut (b : Bool) (s : State) : Bool × State :=
  let answer := lineAnswer s
  (answer.1, call (.shiftInOut b answer.1) answer.2)

/-- The bit positions of a byte in shift order (R70). -/
def shiftOrder (p : Params) : List Nat :=
  if p.shiftLsbFirst then [0, 1, 2, 3, 4, 5, 6, 7] else [7, 6, 5, 4, 3, 2, 1, 0]

/-- The bits of `d` at the positions `ks` are shifted out, none sampled (R206). -/
def shiftOutBits (d : Byte) (ks : List Nat) (s : State) : State :=
  match ks with
  | [] => s
  | k :: rest => shiftOutBits d rest (lineShiftOut (d.getLsbD k) s)

/-- A byte with bit `k` set to `a` where it was 0. -/
def putBit (r : Byte) (k : Nat) (a : Bool) : Byte := if a then r ||| (1#8 <<< k) else r

/-- The bits of `d` at the positions `ks` are shifted out, and each sampled bit goes to the position its outgoing bit
came from (R70, R205). -/
def shiftInOutBits (d : Byte) (ks : List Nat) (r : Byte) (s : State) : Byte × State :=
  match ks with
  | [] => (r, s)
  | k :: rest =>
    let answer := lineShiftInOut (d.getLsbD k) s
    shiftInOutBits d rest (putBit r k answer.1) answer.2

/-- `Cfg.byte_at(o)` (R56, R127). -/
def cfgReadByte (o : Nat) (s : State) : Except OutOfRange Byte × State :=
  let answer := cfgByteAt s.configBlock o
  (answer, call (.byteAt o answer.toOption) s)

/-- `Xport.out_count()` (R47): the length of the oldest waiting chunk. -/
def outCount (s : State) : Option Nat × State :=
  let answer := s.outQueue.head?.map List.length
  (answer, call (.outCount answer) s)

/-- `Xport.in_busy()` (R49). -/
def inBusyGet (s : State) : Bool × State := (s.inBusy, call (.inBusy s.inBusy) s)

/-- `Xport.in_submit(P)` (R50). -/
def inSubmit (packet : List Byte) (s : State) : State :=
  call (.inSubmit packet) { s with inBusy := true, inPkt := some packet }

/-- `Xport.out_take()`: the oldest waiting chunk leaves the queue (R48) and becomes the chunk being ingested, with the
cursor at its start (R39, R200). -/
def outTake (s : State) : State :=
  match s.outQueue with
  | chunk :: rest => call (.outTake chunk) { s with outQueue := rest, outChunk := chunk, pc := 0 }
  | [] => s

/-- `Xport.stage_reply(bytes)` (R51). -/
def stageReply (bytes : List Byte) (s : State) : State :=
  call (.stageReply bytes) { s with ep0 := .staged bytes true }

/-- TAKING THE EXCEPTION `ProtocolStall` (R262, R274): `Xport.stall()`. Nothing is saved, no register of the core is
written, no mode changes and control goes nowhere: the dispatcher goes on to acknowledge the handshake. -/
def protocolStall (s : State) : State := call .stall { s with ep0 := .stalled }

/-- `OutOfRange` at the boundary of the dispatcher: resolved as `ProtocolStall` (R263). -/
def atBoundary {α : Type} (r : Except OutOfRange α) (handle : α → State → State) (s : State) : State :=
  match r with
  | .ok v => handle v s
  | .error _ => protocolStall s

/-- What the host sees of a request with this data phase and requested length: the first `min(len, wLength)` bytes (R51). -/
def controlResult (ep0 : Ep0) (wLength : Half) : ControlResult :=
  match ep0 with
  | .empty => .data []
  | .staged bytes true => .data (bytes.take wLength.toNat)
  | .staged _ false => .lost
  | .stalled => .stall

/-- `Xport.ack_handshake()`: the control transfer ends, the host has its result, and the staged reply lives no longer (R53,
R58, R166). -/
def ackHandshake (wLength : Half) (s : State) : State :=
  call .ackHandshake { s with ep0 := .empty, hostCtl := s.hostCtl ++ [controlResult s.ep0 wLength] }

/-- `EpStall[a]` (R41). An entry that nothing has written is any value (U6, U9). -/
def epStalled (a : Byte) (s : State) : Bool :=
  (sparseGet s.epStall a.toNat).getD (Config.epStallFree s.renums a)

/-- The data toggle of an endpoint address (R41). One that nothing has reset is any value (U6, U9). -/
def epToggleOf (a : Byte) (s : State) : DataToggle :=
  (sparseGet s.epToggle a.toNat).getD (Config.epToggleFree s.renums a)

/-- `Xport.ep_stall_get(a)` (R54). -/
def epStallGet (a : Byte) (s : State) : Bool × State :=
  (epStalled a s, call (.epStallGet a (epStalled a s)) s)

/-- `Xport.ep_stall_set(a, b)` (R54). -/
def epStallSet (a : Byte) (b : Bool) (s : State) : State :=
  call (.epStallSet a b) { s with epStall := sparseSet s.epStall a.toNat b }

/-- `Xport.ep_toggle_reset(a)` (R54). -/
def epToggleReset (a : Byte) (s : State) : State :=
  call (.epToggleReset a) { s with epToggle := sparseSet s.epToggle a.toNat .data0 }

/-- A bulk-IN packet: the magic header and at most 62 payload bytes (R97). -/
def packetOf (payload : List Byte) : List Byte := Config.hdr ++ payload.take Config.maxPayload

/-- `Xport.renumerate()` (R55): no register of the core changes; afterwards the transport's own state is any value (U9,
log 11), within the bounds that R47 and R64 set for a chunk and a packet. -/
def renumerate (s : State) : State :=
  call .renumerate
    { s with
      outQueue := (Config.renumQueue s.renums).map (fun chunk => chunk.take s.params.maxChunk)
      inBusy := Config.renumInBusy s.renums
      inPkt := (Config.renumPayload s.renums).map packetOf
      epStall := []
      epToggle := []
      renums := s.renums + 1 }

end Sys2Proof.Machine
end

