-- ==== Sys2Proof/Machine/Operands.lean ====
section
/-! DEFINITION. Operand assembly (30_encoding.md R99): what a rule cuts from a field, and the plausibility predicate. -/

namespace Sys2Proof.Machine

/-- Configuration offset: `(wIndexL << 1) & 0x7F`, even, 0 to 126 (R99, R183). -/
def cfgOffset (indexL : Byte) : Nat := ((indexL <<< 1) &&& 0x7F).toNat

/-- Endpoint number: the direction bit stripped (R99). -/
def endpointNumber (a : Byte) : Nat := (a &&& 0x7F).toNat

/-- The plausibility predicate (R139). -/
def plausible (a : Byte) : Bool :=
  endpointNumber a == 1 || (decide (endpointNumber a ≤ 8) && endpointNumber a % 2 == 0)

/-- An endpoint operand: implausible is `OutOfRange` (R139, R263). -/
def endpointOperand (a : Byte) : Except OutOfRange Byte := if plausible a then .ok a else .error .endpoint

/-- A reply clipped to the requested length, two bytes at most (R183, R188). -/
def clipTwo (reply : List Byte) (length : Half) : List Byte := reply.take (min length.toNat 2)

/-- Feature selectors (R102). -/
def selectorHalt : Byte := 0x00
def selectorRemoteWakeup : Byte := 0x01
def selectorTestMode : Byte := 0x02

end Sys2Proof.Machine
end

