-- ==== Sys2Proof/Machine/Flags.lean ====
section
/-! DEFINITION. The one-bit flags and the bytes computed from one bit: how each flag of 10_state.md R40 gets its value. -/

namespace Sys2Proof.Machine

/-- `WriteOnly <- not R`: every byte of bit-bang mode records its read bit (R201). -/
def recordReadBit (readBit : Bool) (s : State) : State := { s with writeOnly := !readBit }

/-- Arming the "short-transfer-due" flag: `TickFlag <- true` under `ARM_SETS_TICK` (R29, R226). -/
def armTick (s : State) : State := { s with tickFlag := s.tickFlag || s.params.armSetsTick }

/-- The echo byte of a mode flag (R184, R186). -/
def echoByte (flag : Bool) : Byte := if flag then 0x01 else 0x00

/-- The status reply of an endpoint: the stall bit, and a zero byte where `EP_STATUS_LEN` is 2 (R154). -/
def endpointStatus (len : EpStatusLen) (stalled : Bool) : List Byte :=
  match len with
  | .one => [echoByte stalled]
  | .two => [echoByte stalled, 0x00]

/-- `RBYTE`: `(secondary_status << 1) | primary_status`, the secondary status fixed at 1 (R98). -/
def readByte (p : Bool) : Byte :=
  ((BitVec.ofBool Config.secondaryStatus).setWidth 8 <<< 1) ||| (BitVec.ofBool p).setWidth 8

/-- The mode predicate: bit-bang mode iff `PendingShiftCount == 0` (R40). -/
def bitBangMode (s : State) : Bool := decide (s.pendingShiftCount = 0)

end Sys2Proof.Machine
end

