-- ==== Sys2Proof/Machine/DataPlane.lean ====
section
/-! DEFINITION. The data-plane commands (43_dataplane_interpreter.md). Each runs in the mode in which a byte is read as
it; in another mode it is refused by name (log 14). -/

namespace Sys2Proof.Machine

/-- What a bit-bang command does, in bit-bang mode only (R91). -/
def inBitBang (s : State) (o : Out) : Out := if bitBangMode s then o else .refused .notInThisMode

/-- What a byte-shift command does, in byte-shift mode with this `WriteOnly` only (R93, R104). -/
def inShift (writeOnly : Bool) (s : State) (o : Out) : Out :=
  if !bitBangMode s && s.writeOnly == writeOnly then o else .refused .notInThisMode

/-- After the eight bits of a byte-shift byte the count falls by one (R207). -/
def countDown (s : State) : State := { s with pendingShiftCount := s.pendingShiftCount - 1 }

/-- `BBW L` (R202). -/
def execBbw (l : Six) (s : State) : Out :=
  inBitBang s (.next (lineSetLines l (recordReadBit false s)))

/-- `BBR L` (R203): the sample is taken after the lines are set. -/
def execBbr (l : Six) (s : State) : Out :=
  inBitBang s (
    let sample := lineGetState (lineSetLines l (recordReadBit true s))
    ringAppend (readByte sample.1) sample.2)

/-- `SHW N` (R204). -/
def execShw (n : Six) (s : State) : Out :=
  inBitBang s (.next { recordReadBit false s with pendingShiftCount := n })

/-- `SHR N` (R208). -/
def execShr (n : Six) (s : State) : Out :=
  inBitBang s (.next { recordReadBit true s with pendingShiftCount := n })

/-- `DATW D` (R206, R207). -/
def execDatw (d : Byte) (s : State) : Out :=
  inShift true s (.next (countDown (shiftOutBits d (shiftOrder s.params) s)))

/-- `DATR D` (R205, R207). -/
def execDatr (d : Byte) (s : State) : Out :=
  inShift false s (
    let sampled := shiftInOutBits d (shiftOrder s.params) 0 s
    andThen (ringAppend sampled.1 sampled.2) (fun t => .next (countDown t)))

end Sys2Proof.Machine
end

