-- ==== Sys2Proof/Machine/StandardIn.lean ====
section
/-! DEFINITION. The standard requests of the IN direction (41_control_dispatch.md, section 2). -/

namespace Sys2Proof.Machine

/-- GET_CONFIGURATION (R141). -/
def execGetConfiguration (s : State) : Out := .next (stageReply [s.curConfig] s)

/-- GET_INTERFACE (R142). -/
def execGetInterface (s : State) : Out := .next (stageReply [s.curAlt] s)

/-- A descriptor is asked for and staged whole; an index out of range stalls before it is asked for (R143, R148). -/
def replyDescriptor (kind : DescKind) (index : Nat) (s : State) : State :=
  atBoundary (cfgDescriptor s.params.numStrings (descSetFor s.desc s.speedMode) kind index)
    (fun bytes t => stageReply bytes (call (.descriptor kind index bytes) t)) s

/-- GET_DESCRIPTOR device (R144). -/
def execGetDescriptorDevice (s : State) : Out := .next (replyDescriptor .device 0 s)

/-- GET_DESCRIPTOR configuration (R146). -/
def execGetDescriptorConfiguration (s : State) : Out := .next (replyDescriptor .configuration 0 s)

/-- GET_DESCRIPTOR string (R148). -/
def execGetDescriptorString (index : Byte) (s : State) : Out := .next (replyDescriptor .string index.toNat s)

/-- GET_DESCRIPTOR device-qualifier (R145). -/
def execGetDescriptorDeviceQualifier (s : State) : Out := .next (replyDescriptor .deviceQualifier 0 s)

/-- GET_DESCRIPTOR other-speed-configuration (R147). -/
def execGetDescriptorOtherSpeed (s : State) : Out := .next (replyDescriptor .otherSpeed 0 s)

/-- GET_DESCRIPTOR of any other type: stall (R149). -/
def execGetDescriptorOther (_ : Byte) (s : State) : Out := .next (protocolStall s)

/-- GET_STATUS, device recipient (R150). -/
def execGetStatusDevice (s : State) : Out := .next (stageReply [0x00, 0x00] s)

/-- GET_STATUS, interface recipient (R151). -/
def execGetStatusInterface (s : State) : Out := .next (stageReply [0x00, 0x00] s)

/-- GET_STATUS, endpoint recipient (R154). -/
def execGetStatusEndpoint (a : Byte) (s : State) : Out :=
  .next (atBoundary (endpointOperand a)
    (fun e t =>
      let stalled := epStallGet e t
      stageReply (endpointStatus t.params.epStatusLen stalled.1) stalled.2) s)

/-- GET_STATUS, any other recipient: stall (R155). -/
def execGetStatusOther (_ : BitVec 5) (s : State) : Out := .next (protocolStall s)

/-- SYNCH_FRAME: stall (R156). -/
def execSynchFrame (s : State) : Out := .next (protocolStall s)

/-- Any other standard IN request: stall (R157). -/
def execStandardInOther (_ : Byte) (s : State) : Out := .next (protocolStall s)

end Sys2Proof.Machine
end

