-- ==== Sys2Proof/Machine/StandardOut.lean ====
section
/-! DEFINITION. The standard requests of the OUT direction (41_control_dispatch.md, section 3), and the requests whose
type field is class or reserved (R137, R138). None of them stages a reply. -/

namespace Sys2Proof.Machine

/-- Class request: stall (R137). -/
def execClassAny (s : State) : Out := .next (protocolStall s)

/-- Reserved-type request: stall (R138). -/
def execReservedTypeAny (s : State) : Out := .next (protocolStall s)

/-- SET_CONFIGURATION (R152). -/
def execSetConfiguration (value : Byte) (s : State) : Out := .next { s with curConfig := value }

/-- SET_INTERFACE (R153). -/
def execSetInterface (value : Byte) (s : State) : Out := .next { s with curAlt := value }

/-- CLEAR_FEATURE, endpoint recipient (R158). -/
def execClearFeatureEndpoint (selector : Byte) (a : Byte) (s : State) : Out :=
  if selector = selectorHalt then
    .next (atBoundary (endpointOperand a) (fun e t => epToggleReset e (epStallSet e false t)) s)
  else .next (protocolStall s)

/-- SET_FEATURE, endpoint recipient (R159). -/
def execSetFeatureEndpoint (selector : Byte) (a : Byte) (s : State) : Out :=
  if selector = selectorHalt then .next (atBoundary (endpointOperand a) (fun e t => epStallSet e true t) s)
  else .next (protocolStall s)

/-- CLEAR_FEATURE, device recipient (R160). -/
def execClearFeatureDevice (selector : Byte) (s : State) : Out :=
  if selector = selectorTestMode then .next s else .next (protocolStall s)

/-- SET_FEATURE, device recipient (R161). -/
def execSetFeatureDevice (selector : Byte) (s : State) : Out :=
  if selector = selectorTestMode then .next s else .next (protocolStall s)

/-- CLEAR_FEATURE, any other recipient: stall (R162). -/
def execClearFeatureOther (_ : BitVec 5) (s : State) : Out := .next (protocolStall s)

/-- SET_FEATURE, any other recipient: stall (R162). -/
def execSetFeatureOther (_ : BitVec 5) (s : State) : Out := .next (protocolStall s)

/-- SET_ADDRESS: a no-op, handled by the transport (R163). -/
def execSetAddress (s : State) : Out := .next s

/-- SET_DESCRIPTOR: stall (R164). -/
def execSetDescriptor (s : State) : Out := .next (protocolStall s)

/-- Any other standard OUT request: stall (R165). -/
def execStandardOutOther (_ : Byte) (s : State) : Out := .next (protocolStall s)

end Sys2Proof.Machine
end

