-- ==== Sys2Proof/Machine/Vendor.lean ====
section
/-! DEFINITION. The vendor requests (42_vendor_commands.md). None reads `Running` (R191). -/

namespace Sys2Proof.Machine

/-- What the vendor hook reports of a vendor request: "handled", always (R180, R189). -/
def vendorHookHandles (_ : Params) (_ : SetupDesc) : Bool := true

/-- START (R181). -/
def execStart (s : State) : Out := .next { s with running := true }

/-- Any other vendor OUT request: handled, no effect (R182). -/
def execVendorOutOther (_ : Byte) (s : State) : Out := .next s

/-- Two bytes of the Configuration Block at an offset, read one after the other (R183). -/
def cfgPair (o : Nat) (s : State) : Except OutOfRange (List Byte) × State :=
  let first := cfgReadByte o s
  match first.1 with
  | .error e => (.error e, first.2)
  | .ok b0 =>
    let second := cfgReadByte (o + 1) first.2
    (second.1.map (fun b1 => [b0, b1]), second.2)

/-- READ_CONFIG (R183). -/
def execReadConfig (indexL : Byte) (length : Half) (s : State) : Out :=
  let pair := cfgPair (cfgOffset indexL) s
  .next (atBoundary pair.1 (fun bytes => stageReply (clipTwo bytes length)) pair.2)

/-- CHANGE_SPEED: toggle, renumerate, stage the echo (R184). Whether the transport delivers the echo across the
disconnect is any value (R306, U9, log 21). -/
def execChangeSpeed (s : State) : Out :=
  let t := renumerate { s with speedMode := !s.speedMode }
  .next { stageReply [echoByte t.speedMode] t with
          ep0 := .staged [echoByte t.speedMode] (Config.renumDelivers s.renums) }

/-- CHANGE_MASTER (R185). -/
def execChangeMaster (s : State) : Out := .next (stageReply [] { s with jtagMaster := !s.jtagMaster })

/-- CHANGE_MODE (R186). -/
def execChangeMode (s : State) : Out :=
  .next (stageReply [echoByte (!s.syncMode)] { s with syncMode := !s.syncMode })

/-- GET_VERSION (R187). -/
def execGetVersion (s : State) : Out := .next (stageReply s.params.fwVersion s)

/-- Any other vendor IN request: the placeholder, clipped (R188). -/
def execVendorInOther (_ : Byte) (length : Half) (s : State) : Out :=
  .next (stageReply (clipTwo Config.placeholder length) s)

end Sys2Proof.Machine
end

