-- ==== Sys2Proof/Machine/Control.lean ====
section
/-! DEFINITION. The Control Dispatcher (41_control_dispatch.md, section 1) and the event loop's setup step
(45_event_loop.md R241): a command read from a stream or a setup phase runs through its own meaning, then, for a request,
the handshake is acknowledged. -/

namespace Sys2Proof.Machine

/-- The command that a decoder has read, run through its meaning: a data-plane command of the stream (R200) or a control
request (R135). An event is no command (log 14). -/
def runCommand (i : Instr) (s : State) : Out :=
  match i with
  | .bbw l => execBbw l s
  | .bbr l => execBbr l s
  | .shw n => execShw n s
  | .shr n => execShr n s
  | .datw d => execDatw d s
  | .datr d => execDatr d s
  | .classAny => execClassAny s
  | .reservedTypeAny => execReservedTypeAny s
  | .start => execStart s
  | .vendorOutOther code => execVendorOutOther code s
  | .readConfig indexL length => execReadConfig indexL length s
  | .changeSpeed => execChangeSpeed s
  | .changeMaster => execChangeMaster s
  | .changeMode => execChangeMode s
  | .getVersion => execGetVersion s
  | .vendorInOther code length => execVendorInOther code length s
  | .getConfiguration => execGetConfiguration s
  | .getInterface => execGetInterface s
  | .getDescriptorDevice => execGetDescriptorDevice s
  | .getDescriptorConfiguration => execGetDescriptorConfiguration s
  | .getDescriptorString index => execGetDescriptorString index s
  | .getDescriptorDeviceQualifier => execGetDescriptorDeviceQualifier s
  | .getDescriptorOtherSpeed => execGetDescriptorOtherSpeed s
  | .getDescriptorOther type => execGetDescriptorOther type s
  | .getStatusDevice => execGetStatusDevice s
  | .getStatusInterface => execGetStatusInterface s
  | .getStatusEndpoint a => execGetStatusEndpoint a s
  | .getStatusOther recipient => execGetStatusOther recipient s
  | .synchFrame => execSynchFrame s
  | .standardInOther code => execStandardInOther code s
  | .setConfiguration value => execSetConfiguration value s
  | .setInterface value => execSetInterface value s
  | .clearFeatureEndpoint selector a => execClearFeatureEndpoint selector a s
  | .setFeatureEndpoint selector a => execSetFeatureEndpoint selector a s
  | .clearFeatureDevice selector => execClearFeatureDevice selector s
  | .setFeatureDevice selector => execSetFeatureDevice selector s
  | .clearFeatureOther recipient => execClearFeatureOther recipient s
  | .setFeatureOther recipient => execSetFeatureOther recipient s
  | .setAddress => execSetAddress s
  | .setDescriptor => execSetDescriptor s
  | .standardOutOther code => execStandardOutOther code s
  | .setupStep => .refused .notACommand
  | .ingest => .refused .notACommand
  | .dataPacket => .refused .notACommand
  | .keepalivePacket => .refused .notACommand
  | .tick => .refused .notACommand
  | .setupArrives _ => .refused .notACommand
  | .chunkArrives _ => .refused .notACommand
  | .hostTakesIn => .refused .notACommand

/-- `handle_setup` (R135, R136): exactly one request rule runs on a fresh control transfer, a vendor request that the
hook does not handle stalls (R140), and then the handshake is acknowledged once (R166). -/
def handleSetup (d : SetupDesc) (s : State) : Out :=
  let fresh : State := { s with ep0 := .empty }
  let handled :=
    if d.reqType = 2 ∧ vendorHookHandles s.params d = false then .next (protocolStall fresh)
    else runCommand (decodeSetup s.params d) fresh
  andThen handled (fun t => .next (ackHandshake d.wLength t))

/-- SETUP_STEP: `setup_step` of the loop (R241). The flag is cleared just before the request is handled; with no setup
pending nothing happens. -/
def execSetupStep (s : State) : Out :=
  if s.setupPending then handleSetup s.setupDesc { s with setupPending := false } else .next s

end Sys2Proof.Machine
end

