-- ==== Sys2Proof/Machine/Engine.lean ====
section
/-! DEFINITION. The un-encoded operations of the Data-Plane Engine: fetching and interpreting the bytes of a chunk
(43_dataplane_interpreter.md R200), the ingestion step and the two packets of the emission step
(44_packet_framer.md). Outside its condition an operation makes at most its query and does nothing else (R221, R228, R242,
log 15). -/

namespace Sys2Proof.Machine

/-- The byte at the chunk cursor (R39, R63). -/
def fetchByte (s : State) : Option Byte := s.outChunk[s.pc]?

/-- One turn of R200's loop: the byte is read in the mode it meets, its command runs, the cursor advances by one. -/
def interpretByte (b : Byte) (s : State) : Out :=
  andThen (runCommand (decodeByte s.pendingShiftCount s.writeOnly b) s) (fun t => .next { t with pc := t.pc + 1 })

/-- R200's loop from the cursor on, at most `k` bytes. -/
def interpretBytes (k : Nat) (s : State) : Out :=
  match k with
  | 0 => .next s
  | k + 1 =>
    match fetchByte s with
    | none => .next s
    | some b => andThen (interpretByte b s) (interpretBytes k)

/-- `ingest_chunk` (R200): every byte of the chunk just taken. -/
def ingestChunk (s : State) : Out := interpretBytes s.outChunk.length s

/-- INGEST: `ingest_step` (R221) under the global gate (R242). The transport is asked once; one whole chunk is taken and each
of its bytes interpreted in order; the capacity gate is tested once, before the chunk. -/
def execIngest (s : State) : Out :=
  if s.running then
    let count := outCount s
    if count.1.isSome && decide (s.pending < Config.gate) then ingestChunk (outTake count.2) else .next count.2
  else .next s

/-- The frame of `emit_step` (R225) under the global gate (R242): the transport is asked whether the endpoint is busy, and
what there is to emit is emitted when it is not. -/
def whenEndpointFree (emit : State → State) (s : State) : Out :=
  if s.running then
    let busy := inBusyGet s
    .next (if busy.1 then busy.2 else emit busy.2)
  else .next s

/-- How many bytes a data packet takes (R226). -/
def payloadLength (s : State) : Nat := min s.pending Config.maxPayload

/-- The packet that a data packet submits (R226). -/
def dataPacketOf (s : State) : List Byte := Config.hdr ++ ringRun s (payloadLength s)

/-- DATA_PACKET (R226), when the engine runs, the endpoint is free and bytes are pending (R225, R242). -/
def execDataPacket (s : State) : Out :=
  whenEndpointFree (fun t =>
    if 0 < t.pending then armTick (inSubmit (dataPacketOf t) (ringTake (payloadLength t) t)) else t) s

/-- KEEPALIVE_PACKET (R227), when the engine runs, the endpoint is free, nothing is pending and the tick flag is set. -/
def execKeepalivePacket (s : State) : Out :=
  whenEndpointFree (fun t =>
    if t.pending = 0 ∧ t.tickFlag = true then { inSubmit Config.hdr t with tickFlag := false } else t) s

end Sys2Proof.Machine
end

