-- ==== Sys2Proof/Machine/Environment.lean ====
section
/-! DEFINITION. The events of the other agents (60_exceptions.md R266 to R270). None transfers control: each writes a flag
or transport state. An event that is not enabled is refused by name (log 14); the loop never runs one. -/

namespace Sys2Proof.Machine

/-- TICK (R267). -/
def execTick (s : State) : Out := .next { s with tickFlag := true }

/-- SETUP_ARRIVES (R268), enabled while no setup is pending. -/
def execSetupArrives (d : SetupDesc) (s : State) : Out :=
  if s.setupPending then .refused .setupAlreadyPending
  else .next { s with setupDesc := d, setupPending := true }

/-- CHUNK_ARRIVES (R269): the chunk joins the tail of the transport's queue, whose depth is unbounded here. A chunk longer
than `MAX_CHUNK` is taken too: only an append to a full ring is a fault (R224, log 24). -/
def execChunkArrives (chunk : List Byte) (s : State) : Out := .next { s with outQueue := s.outQueue ++ [chunk] }

/-- HOST_TAKES_IN (R270), enabled while a packet is submitted: it is delivered to the host whole. -/
def execHostTakesIn (s : State) : Out :=
  if s.inBusy then .next { s with inBusy := false, inPkt := none, hostIn := s.hostIn ++ s.inPkt.toList }
  else .refused .noPacketSubmitted

end Sys2Proof.Machine
end

