-- ==== Sys2Proof/Machine/Dispatch.lean ====
section
/-! DEFINITION. One arm per constructor of Instr: the instruction's meaning. -/

namespace Sys2Proof.Machine

def exec (i : Instr) (s : State) : Host.Outcome State Fault Refusal :=
  match i with
  | .bbw l => Sys2Proof.Machine.execBbw l s
  | .bbr l => Sys2Proof.Machine.execBbr l s
  | .shw n => Sys2Proof.Machine.execShw n s
  | .shr n => Sys2Proof.Machine.execShr n s
  | .datw d => Sys2Proof.Machine.execDatw d s
  | .datr d => Sys2Proof.Machine.execDatr d s
  | .classAny => Sys2Proof.Machine.execClassAny s
  | .reservedTypeAny => Sys2Proof.Machine.execReservedTypeAny s
  | .start => Sys2Proof.Machine.execStart s
  | .vendorOutOther code => Sys2Proof.Machine.execVendorOutOther code s
  | .readConfig indexL length => Sys2Proof.Machine.execReadConfig indexL length s
  | .changeSpeed => Sys2Proof.Machine.execChangeSpeed s
  | .changeMaster => Sys2Proof.Machine.execChangeMaster s
  | .changeMode => Sys2Proof.Machine.execChangeMode s
  | .getVersion => Sys2Proof.Machine.execGetVersion s
  | .vendorInOther code length => Sys2Proof.Machine.execVendorInOther code length s
  | .getConfiguration => Sys2Proof.Machine.execGetConfiguration s
  | .getInterface => Sys2Proof.Machine.execGetInterface s
  | .getDescriptorDevice => Sys2Proof.Machine.execGetDescriptorDevice s
  | .getDescriptorConfiguration => Sys2Proof.Machine.execGetDescriptorConfiguration s
  | .getDescriptorString index => Sys2Proof.Machine.execGetDescriptorString index s
  | .getDescriptorDeviceQualifier => Sys2Proof.Machine.execGetDescriptorDeviceQualifier s
  | .getDescriptorOtherSpeed => Sys2Proof.Machine.execGetDescriptorOtherSpeed s
  | .getDescriptorOther type => Sys2Proof.Machine.execGetDescriptorOther type s
  | .getStatusDevice => Sys2Proof.Machine.execGetStatusDevice s
  | .getStatusInterface => Sys2Proof.Machine.execGetStatusInterface s
  | .getStatusEndpoint a => Sys2Proof.Machine.execGetStatusEndpoint a s
  | .getStatusOther recipient => Sys2Proof.Machine.execGetStatusOther recipient s
  | .synchFrame => Sys2Proof.Machine.execSynchFrame s
  | .standardInOther code => Sys2Proof.Machine.execStandardInOther code s
  | .setConfiguration value => Sys2Proof.Machine.execSetConfiguration value s
  | .setInterface value => Sys2Proof.Machine.execSetInterface value s
  | .clearFeatureEndpoint selector a => Sys2Proof.Machine.execClearFeatureEndpoint selector a s
  | .setFeatureEndpoint selector a => Sys2Proof.Machine.execSetFeatureEndpoint selector a s
  | .clearFeatureDevice selector => Sys2Proof.Machine.execClearFeatureDevice selector s
  | .setFeatureDevice selector => Sys2Proof.Machine.execSetFeatureDevice selector s
  | .clearFeatureOther recipient => Sys2Proof.Machine.execClearFeatureOther recipient s
  | .setFeatureOther recipient => Sys2Proof.Machine.execSetFeatureOther recipient s
  | .setAddress => Sys2Proof.Machine.execSetAddress s
  | .setDescriptor => Sys2Proof.Machine.execSetDescriptor s
  | .standardOutOther code => Sys2Proof.Machine.execStandardOutOther code s
  | .setupStep => Sys2Proof.Machine.execSetupStep s
  | .ingest => Sys2Proof.Machine.execIngest s
  | .dataPacket => Sys2Proof.Machine.execDataPacket s
  | .keepalivePacket => Sys2Proof.Machine.execKeepalivePacket s
  | .tick => Sys2Proof.Machine.execTick s
  | .setupArrives d => Sys2Proof.Machine.execSetupArrives d s
  | .chunkArrives chunk => Sys2Proof.Machine.execChunkArrives chunk s
  | .hostTakesIn => Sys2Proof.Machine.execHostTakesIn s

end Sys2Proof.Machine
end

