-- ==== Sys2Proof/Machine/Loop.lean ====
section
/-! DEFINITION. The event loop (45_event_loop.md): which instruction runs next, the core's or an event's, and when there
is nothing left to do. -/

namespace Sys2Proof.Machine

/-- The core's next instruction: the setup step, then ingestion, then emission, where a data packet comes before a
keepalive (R220, R225, R240, R242, R272). -/
def coreInstr (s : State) : Instr :=
  match s.phase with
  | .setup => .setupStep
  | .ingest => .ingest
  | .emit => if 0 < s.pending then .dataPacket else .keepalivePacket

/-- The part of the iteration after this one (R240). -/
def nextPhase : Phase → Phase
  | .setup => .ingest
  | .ingest => .emit
  | .emit => .setup

/-- The event of a turn, if it is not the core's. -/
def turnEvent : Turn → Option Instr
  | .core => none
  | .tick => some .tick
  | .setupArrives d => some (.setupArrives d)
  | .chunkArrives chunk => some (.chunkArrives chunk)
  | .hostTakesIn => some .hostTakesIn

/-- Whether the event of a turn can occur now (R267 to R270). -/
def turnEnabled (s : State) : Turn → Bool
  | .core => true
  | .tick => true
  | .setupArrives _ => !s.setupPending
  | .chunkArrives _ => true
  | .hostTakesIn => s.inBusy

/-- The instruction of the next step, whether it is the core's, and the state it runs in: the turn at the head of the
script, if it is enabled, is used up; an event that is not enabled waits and the core moves instead (R244, log 9). -/
def nextTurn (s : State) : Instr × Bool × State :=
  match s.turns with
  | [] => (coreInstr s, true, s)
  | turn :: rest =>
    if turnEnabled s turn then
      match turnEvent turn with
      | some i => (i, false, { s with turns := rest })
      | none => (coreInstr s, true, { s with turns := rest })
    else (coreInstr s, true, s)

/-- After a turn of the core the next part of the iteration is due. -/
def afterTurn (isCore : Bool) (s : State) : Out :=
  if isCore then .next { s with phase := nextPhase s.phase } else .next s

/-- A quiescent state: the core can do nothing more until an event of another agent (R246). -/
def quiescent (s : State) : Bool :=
  !s.setupPending
    && (!s.running
      || ((s.outQueue.isEmpty || decide (Config.gate ≤ s.pending))
        && (s.inBusy || (decide (s.pending = 0) && !s.tickFlag))))

end Sys2Proof.Machine
end

