-- ==== Sys2Proof/Machine/Step.lean ====
section
/-! DEFINITION. One step: the next instruction, the core's or an event's, is executed (45_event_loop.md R240, R244). -/

namespace Sys2Proof.Machine

/-- One step of the machine. -/
def step (s : State) : Host.Outcome State Fault Refusal :=
  let turn := nextTurn s
  andThen (exec turn.1 turn.2.2) (afterTurn turn.2.1)

/-- The state in which the very next step runs the instruction that `decodeTableWord nbits w` reads (log 17). Up to 8
bits: the engine runs, in bit-bang mode with the gate open, and the byte is a chunk of its own at the head of the
transport's queue. Else: the setup descriptor is pending. In both cases the core has the next turn. -/
def State.withFetchWord (s : State) (nbits w : Nat) : State :=
  if nbits ≤ 8 then
    { s with
      running := true
      pendingShiftCount := 0
      pending := if s.pending < Config.gate then s.pending else 0
      outQueue := [BitVec.ofNat 8 (w % 2 ^ nbits)] :: s.outQueue
      phase := .ingest
      turns := .core :: s.turns }
  else
    { s with
      setupPending := true
      setupDesc := SetupDesc.ofBits (BitVec.ofNat 64 (w % 2 ^ nbits))
      phase := .setup
      turns := .core :: s.turns }

end Sys2Proof.Machine
end

