-- ==== Sys2Proof/Safety.lean ====
section
/-! DEFINITION. What counts as a safe run, and the terms in which claims are stated: the invariant of the machine, what a
request's outcome is, the queue that the ring holds, and what leaves and enters it. -/

namespace Sys2Proof.Machine

/-- A bulk-IN packet has the form of R97: the magic header, then at most 62 bytes. -/
def framed (packet : List Byte) : Bool :=
  packet.take 2 == Config.hdr && decide (packet.length ≤ Config.maxPacket)

/-- The chunks of a script of turns are no longer than `MAX_CHUNK` (R269). -/
def turnOk (p : Params) : Turn → Bool
  | .core => true
  | .tick => true
  | .setupArrives _ => true
  | .chunkArrives chunk => decide (chunk.length ≤ p.maxChunk)
  | .hostTakesIn => true

/-- The invariant: what every run from reset of a well-formed machine with a lawful host keeps true. -/
structure State.Inv (s : State) : Prop where
  /-- The parameters meet the constraints of R7. -/
  params_wf : s.params.wf = true
  /-- The ring's memory is canonical. -/
  ring_wf : s.ring.wf = true
  /-- "`Pending` never exceeds capacity" (R26, R224). -/
  pending_le : s.pending ≤ Config.cap
  /-- The waiting chunks are no longer than `MAX_CHUNK` (R47). -/
  queue_ok : ∀ chunk ∈ s.outQueue, chunk.length ≤ s.params.maxChunk
  /-- So are the chunks still to arrive (R295). -/
  turns_ok : ∀ turn ∈ s.turns, turnOk s.params turn = true
  /-- The cursor never passes the end of the chunk (R39). -/
  pc_le : s.pc ≤ s.outChunk.length
  /-- The submitted packet and the packets delivered have the form of R97. -/
  inPkt_framed : ∀ packet ∈ s.inPkt, framed packet = true
  hostIn_framed : ∀ packet ∈ s.hostIn, framed packet = true
  /-- The endpoint tables are canonical. -/
  epStall_rising : sparseRising s.epStall = true
  epToggle_rising : sparseRising s.epToggle = true

/-! Outcomes of a control request. -/

/-- The request asks its collaborators these queries, stages a reply and does nothing else (R51). -/
def Replies (i : Instr) (s : State) (queries : List Call) (bytes : List Byte) : Prop :=
  exec i s = .next { s with ep0 := .staged bytes true, trace := s.trace ++ queries ++ [.stageReply bytes] }

/-- The request stalls and does nothing else (R262). -/
def Stalls (i : Instr) (s : State) : Prop :=
  exec i s = .next { s with ep0 := .stalled, trace := s.trace ++ [.stall] }

/-- The request is handled and changes nothing. -/
def NoEffect (i : Instr) (s : State) : Prop := exec i s = .next s

/-- The instruction is a control request: a row of format `SETUP`. -/
def isRequest (i : Instr) : Bool := (encodeSetup Config.params i).isSome

/-- The bytes of the descriptor, after the first two, that the rule of a request names (R99, R108). -/
def namedFields : Instr → List Nat
  | .readConfig _ _ => [4, 6, 7]
  | .vendorInOther _ _ => [6, 7]
  | .getDescriptorDevice => [3]
  | .getDescriptorConfiguration => [3]
  | .getDescriptorString _ => [2, 3]
  | .getDescriptorDeviceQualifier => [3]
  | .getDescriptorOtherSpeed => [3]
  | .getDescriptorOther _ => [3]
  | .getStatusEndpoint _ => [4]
  | .setConfiguration _ => [2]
  | .setInterface _ => [2]
  | .clearFeatureEndpoint _ _ => [2, 4]
  | .setFeatureEndpoint _ _ => [2, 4]
  | .clearFeatureDevice _ => [2]
  | .setFeatureDevice _ => [2]
  | _ => []

/-! The calls of a run. -/

/-- The calls that R57 names: what an observer of the block sees. The others are the idempotent queries, and taking a
chunk. -/
def isObservable : Call → Bool
  | .setLines _ => true
  | .getState _ => true
  | .shiftOut _ => true
  | .shiftInOut _ _ => true
  | .inSubmit _ => true
  | .stageReply _ => true
  | .stall => true
  | .ackHandshake => true
  | .epStallSet _ _ => true
  | .epToggleReset _ => true
  | .renumerate => true
  | .cfgBuild _ => false
  | .byteAt _ _ => false
  | .descriptor _ _ _ => false
  | .outCount _ => false
  | .outTake _ => false
  | .inBusy _ => false
  | .epStallGet _ _ => false

/-- The observable behaviour among some calls, in order (R57). -/
def observable (calls : List Call) : List Call := calls.filter isObservable

/-- The two calls that give a control request its outcome (R51, R57): a request that makes neither has an empty reply. -/
def isOutcome : Call → Bool
  | .stageReply _ => true
  | .stall => true
  | _ => false

/-- The part of a staged reply that the host receives (R51). -/
def hostReceives (bytes : List Byte) (wLength : Half) : List Byte := bytes.take (min bytes.length wLength.toNat)

/-- `Xport.out_count()` in a state: the call with its answer (R47). -/
def countQuery (s : State) : Call := .outCount (s.outQueue.head?.map List.length)

/-- The ingestion step's condition: the global gate, a waiting chunk, and the capacity gate (R221, R242). -/
def ingestEnabled (s : State) : Bool := s.running && !s.outQueue.isEmpty && decide (s.pending < Config.gate)

/-! The ring as a queue, and what the trace says of it. -/

/-- The pending bytes, oldest first (R229). -/
def ringContents (s : State) : List Byte := ringRun s s.pending

/-- The payload bytes of the packets among some calls, in order (R229): what follows the two-byte header. -/
def payloads : List Call → List Byte
  | [] => []
  | .inSubmit packet :: rest => packet.drop 2 ++ payloads rest
  | _ :: rest => payloads rest

/-- Eight sampled bits put together: the `k`-th answer goes where the `k`-th outgoing bit came from (R70). -/
def assembled (p : Params) (answers : List Bool) : Byte :=
  ((shiftOrder p).zip answers).foldl (fun b e => putBit b e.1 e.2) 0

/-- The result bytes that some calls sampled, in order: one for each status sample, one for each eight shifted-in bits
(R203, R205). -/
def results (p : Params) : List Call → List Byte
  | .getState a :: rest => readByte a :: results p rest
  | .shiftInOut _ a0 :: .shiftInOut _ a1 :: .shiftInOut _ a2 :: .shiftInOut _ a3 ::
      .shiftInOut _ a4 :: .shiftInOut _ a5 :: .shiftInOut _ a6 :: .shiftInOut _ a7 :: rest =>
      assembled p [a0, a1, a2, a3, a4, a5, a6, a7] :: results p rest
  | _ :: rest => results p rest
  | [] => []

/-- How many calls of each kind a command makes, in the order of R211's columns: `set_lines`, `get_state`, `shift_out`,
`shift_in_out`; and how many ring bytes it appends. -/
def lineCalls (calls : List Call) : Nat × Nat × Nat × Nat :=
  (calls.countP (fun c => match c with | .setLines _ => true | _ => false),
   calls.countP (fun c => match c with | .getState _ => true | _ => false),
   calls.countP (fun c => match c with | .shiftOut _ => true | _ => false),
   calls.countP (fun c => match c with | .shiftInOut _ _ => true | _ => false))

/-! Changes made to a state to compare two runs. -/

/-- The registers that the vendor and standard requests toggle or store, given other values (R212). -/
def withModeFlags (jtagMaster syncMode speedMode : Bool) (curConfig curAlt : Byte) (s : State) : State :=
  { s with jtagMaster := jtagMaster, syncMode := syncMode, speedMode := speedMode, curConfig := curConfig,
           curAlt := curAlt }

/-- A state with what the interpreter works on, and every other register as in `other` (R212). -/
def withOtherRegisters (other s : State) : State :=
  { other with params := s.params, writeOnly := s.writeOnly, pendingShiftCount := s.pendingShiftCount, ring := s.ring,
               rdCursor := s.rdCursor, pending := s.pending, pc := s.pc, outChunk := s.outChunk, trace := s.trace,
               lineIn := s.lineIn, draws := s.draws }

/-- An outcome with a change made to its next state. -/
def mapNext (f : State → State) (o : Out) : Out := andThen o (fun t => .next (f t))

end Sys2Proof.Machine
end

