-- ==== Sys2Proof/Certificates/Slice0/Obligations.lean ====
section
/-! DEFINITION. The statements for the provers, one definition each. The rule of spec/ that a statement formalises stands in
its docstring. -/

open Sys2Proof Sys2Proof.Machine

/-! Reset and the invariant. -/

/-- After reset the engine is stopped and in bit-bang mode, the ring is empty, no setup is pending, the configuration
and alternate setting are 0, the endpoint is free, nothing waits, the Configuration Block is the one that `Cfg.build()`
returns, and that was the only call made (10_state.md section 8, 70_reset_and_hazards.md section 1). -/
def Obligations.ResetLeavesEngineStopped : Prop :=
  State.reset.running = false ∧ State.reset.writeOnly = true ∧ State.reset.pendingShiftCount = 0
    ∧ State.reset.pending = 0 ∧ State.reset.rdCursor = 0 ∧ State.reset.setupPending = false
    ∧ State.reset.curConfig = 0 ∧ State.reset.curAlt = 0 ∧ State.reset.inBusy = false ∧ State.reset.outQueue = []
    ∧ cfgBuild Config.params = some State.reset.configBlock
    ∧ State.reset.trace = [.cfgBuild State.reset.configBlock]

/-- The state after reset meets the invariant. -/
def Obligations.ResetMeetsInvariant : Prop := State.reset.Inv

/-- From every state that meets the invariant a step answers a next state that meets it again: no fault, no refusal,
and `Pending` never exceeds the capacity. -/
def Obligations.StepKeepsInvariant : Prop :=
  ∀ s : State, s.Inv → ∃ t, step s = .next t ∧ t.Inv

/-! Encodings. -/

/-- The decoder gives back every well-formed instruction from its encoding, in every reading in which its bytes are
read as it, and leaves the bytes after it. -/
def Obligations.DecodeOfEncodeGivesBack : Prop :=
  ∀ (p : Params) (i : Instr) (r : Reading) (bytes rest : List Byte), p.wf = true → wellFormed p i = true →
    readsAs i r = true → encode p i = some bytes → decode p r (bytes ++ rest) = .ok (i, rest)

/-- R105: the request a descriptor is decoded to is the one named by the first row of the ordered opcode table that
the descriptor's 64-bit number matches; every descriptor matches one. -/
def Obligations.DecoderFollowsOpcodeTable : Prop :=
  ∀ (p : Params) (d : SetupDesc), firstMatch (setupRows p) d.toBits = some (mnemonic (decodeSetup p d))

/-- R108: bytes of a descriptor that the matching row's rule does not name change nothing, whatever they hold, and the
direction bit of an endpoint address does not matter to the plausibility test. -/
def Obligations.UnnamedSetupFieldsIgnored : Prop :=
  (∀ (p : Params) (d e : SetupDesc), e.bmRequestType = d.bmRequestType → e.bRequest = d.bRequest →
      (∀ k ∈ namedFields (decodeSetup p d), e.bytes[k]? = d.bytes[k]?) → decodeSetup p e = decodeSetup p d)
    ∧ ∀ a : Byte, plausible (a ^^^ 0x80) = plausible a

/-- R104: in bit-bang mode the four quarters of the byte range are the four commands with the low six bits as operand;
in byte-shift mode every byte is data, shifted out alone or out and in. -/
def Obligations.StreamBytesReadByMode : Prop :=
  (∀ (w : Bool) (b : Byte), decodeByte 0 w b =
      if b.toNat < 0x40 then .bbw (BitVec.ofNat 6 b.toNat)
      else if b.toNat < 0x80 then .bbr (BitVec.ofNat 6 b.toNat)
      else if b.toNat < 0xC0 then .shw (BitVec.ofNat 6 b.toNat)
      else .shr (BitVec.ofNat 6 b.toNat))
    ∧ ∀ (c : Six) (b : Byte), c ≠ 0 → decodeByte c true b = .datw b ∧ decodeByte c false b = .datr b

/-- Some words, written out from the spec's encodings, decode to the instructions they stand for. -/
def Obligations.KnownWordsDecode : Prop :=
  decodeTableWord 8 0x23 = some (.bbw 0x23) ∧ decodeTableWord 8 0x6C = some (.bbr 0x2C)
    ∧ decodeTableWord 8 0xBF = some (.shw 63) ∧ decodeTableWord 8 0xC5 = some (.shr 5)
    ∧ decodeTableWord 64 0x00020001000090C0 = some (.readConfig 1 2)
    ∧ decodeTableWord 64 0x00FF040903030680 = some (.getDescriptorString 3)
    ∧ decodeTableWord 64 0x0000008100000102 = some (.clearFeatureEndpoint 0 0x81)

/-! The data plane: results, frames and completion of the six commands. -/

/-- R202: the byte `00llllll` is BBW in bit-bang mode; it records the read bit and sets the lines, once, and does
nothing else. -/
def Obligations.BbwSetsLinesOnce : Prop :=
  (∀ (w : Bool) (l : Six), decodeByte 0 w ((0b00 : BitVec 2) ++ l) = .bbw l)
    ∧ ∀ (l : Six) (s : State), s.pendingShiftCount = 0 →
      exec (.bbw l) s = .next { s with writeOnly := true, trace := s.trace ++ [.setLines l] }

/-- R203, R98: the byte `01llllll` is BBR in bit-bang mode; it sets the lines, then samples the status line (the
scripted answer where there is one), and appends 02 or 03 to the ring; every other ring byte and every other register
stays. On a full ring it is the model's fault. -/
def Obligations.BbrAppendsStatusByte : Prop :=
  (∀ (w : Bool) (l : Six), decodeByte 0 w ((0b01 : BitVec 2) ++ l) = .bbr l)
    ∧ ∀ (l : Six) (s : State), s.pendingShiftCount = 0 →
    (s.pending < 256 → ∃ (p : Bool) (t : State),
      exec (.bbr l) s = .next t
        ∧ t = { s with writeOnly := false, ring := t.ring, pending := s.pending + 1,
                       trace := s.trace ++ [.setLines l, .getState p], lineIn := t.lineIn, draws := t.draws }
        ∧ (∀ a rest, s.lineIn = a :: rest → p = a ∧ t.lineIn = rest)
        ∧ ringRead t ((s.rdCursor.toNat + s.pending) % 256) = (if p then 0x03 else 0x02)
        ∧ ∀ a, a % 256 ≠ (s.rdCursor.toNat + s.pending) % 256 → ringRead t a = ringRead s a)
    ∧ (256 ≤ s.pending → exec (.bbr l) s = .fault .ringOverflow)

/-- R204, R208: the bytes `10nnnnnn` and `11nnnnnn` are SHW and SHR in bit-bang mode; they record the read bit and set
the count; no line is touched and nothing is appended. -/
def Obligations.ModeSwitchSetsCount : Prop :=
  (∀ (w : Bool) (n : Six), decodeByte 0 w ((0b10 : BitVec 2) ++ n) = .shw n
      ∧ decodeByte 0 w ((0b11 : BitVec 2) ++ n) = .shr n)
    ∧ ∀ (n : Six) (s : State), s.pendingShiftCount = 0 →
    exec (.shw n) s = .next { s with writeOnly := true, pendingShiftCount := n }
      ∧ exec (.shr n) s = .next { s with writeOnly := false, pendingShiftCount := n }

/-- R206: with the count positive and `WriteOnly` true a byte is DATW; it shifts its eight bits out in shift order,
samples nothing, and counts down by one. -/
def Obligations.DatwShiftsEightBitsOut : Prop :=
  (∀ (c : Six) (d : Byte), c ≠ 0 → decodeByte c true d = .datw d)
    ∧ ∀ (d : Byte) (s : State), s.pendingShiftCount ≠ 0 → s.writeOnly = true →
    exec (.datw d) s = .next { s with
      pendingShiftCount := BitVec.ofNat 6 (s.pendingShiftCount.toNat - 1)
      trace := s.trace ++ (if s.params.shiftLsbFirst then [0, 1, 2, 3, 4, 5, 6, 7] else [7, 6, 5, 4, 3, 2, 1, 0]).map
        (fun k => .shiftOut (d.getLsbD k)) }

/-- R205: with the count positive and `WriteOnly` false a byte is DATR; it shifts its eight bits out in shift order,
sampling an answer with each; the appended byte holds each answer at the position its outgoing bit came from; the
count falls by one; every other ring byte and register stays. On a full ring it is the model's fault. -/
def Obligations.DatrShiftsEightBitsBothWays : Prop :=
  (∀ (c : Six) (d : Byte), c ≠ 0 → decodeByte c false d = .datr d)
    ∧ ∀ (d : Byte) (s : State) (order : List Nat), s.pendingShiftCount ≠ 0 → s.writeOnly = false →
    order = (if s.params.shiftLsbFirst then [0, 1, 2, 3, 4, 5, 6, 7] else [7, 6, 5, 4, 3, 2, 1, 0]) →
    (s.pending < 256 → ∃ (answers : List Bool) (r : Byte) (t : State),
      exec (.datr d) s = .next t ∧ answers.length = 8
        ∧ t = { s with pendingShiftCount := BitVec.ofNat 6 (s.pendingShiftCount.toNat - 1), ring := t.ring,
                       pending := s.pending + 1,
                       trace := s.trace ++ List.zipWith (fun k a => .shiftInOut (d.getLsbD k) a) order answers,
                       lineIn := t.lineIn, draws := t.draws }
        ∧ (∀ as rest, as.length = 8 → s.lineIn = as ++ rest → answers = as ∧ t.lineIn = rest)
        ∧ order.map (fun k => r.getLsbD k) = answers
        ∧ ringRead t ((s.rdCursor.toNat + s.pending) % 256) = r
        ∧ ∀ a, a % 256 ≠ (s.rdCursor.toNat + s.pending) % 256 → ringRead t a = ringRead s a)
    ∧ (256 ≤ s.pending → exec (.datr d) s = .fault .ringOverflow)

/-- The spec's own inference (R211): the table of interface calls per command: how many of each line call it makes,
how many bytes it appends, and that it writes no register but those of its row. -/
def Obligations.LineCallsPerCommand : Prop :=
  ∀ (i : Instr) (s t : State) (calls : Nat × Nat × Nat × Nat) (bytes : Nat) (writesMode writesCount : Bool),
    (match i with
      | .bbw _ => calls = (1, 0, 0, 0) ∧ bytes = 0 ∧ writesMode = true ∧ writesCount = false
      | .bbr _ => calls = (1, 1, 0, 0) ∧ bytes = 1 ∧ writesMode = true ∧ writesCount = false
      | .shw _ => calls = (0, 0, 0, 0) ∧ bytes = 0 ∧ writesMode = true ∧ writesCount = true
      | .shr _ => calls = (0, 0, 0, 0) ∧ bytes = 0 ∧ writesMode = true ∧ writesCount = true
      | .datw _ => calls = (0, 0, 8, 0) ∧ bytes = 0 ∧ writesMode = false ∧ writesCount = true
      | .datr _ => calls = (0, 0, 0, 8) ∧ bytes = 1 ∧ writesMode = false ∧ writesCount = true
      | _ => False) →
    exec i s = .next t →
    ∃ new, t.trace = s.trace ++ new ∧ lineCalls new = calls ∧ t.pending = s.pending + bytes
      ∧ (bytes = 0 → t.ring = s.ring) ∧ (writesMode = false → t.writeOnly = s.writeOnly)
      ∧ (writesCount = false → t.pendingShiftCount = s.pendingShiftCount)
      ∧ t = { s with writeOnly := t.writeOnly, pendingShiftCount := t.pendingShiftCount, pending := t.pending,
                     ring := t.ring, trace := t.trace, lineIn := t.lineIn, draws := t.draws }

/-! Ingestion. -/

/-- R200, R221; and the spec's own inferences, that a byte appends at most one ring byte (R210) and that a chunk of at most
64 bytes therefore fits (R224), with the global gate (R242), which INGEST run on its own carries too (log 15, DEDUCED):
with the engine running, a chunk waiting and fewer than 193 bytes pending, the transport is asked for its count
once, the oldest chunk is taken and interpreted from its first byte; a chunk of at most 64 bytes is interpreted whole:
the cursor ends at its end, at most one ring byte is appended for each of its bytes, and what the chunk's bytes do not
write stays; with a closed gate or no chunk waiting the count is asked for and nothing else happens; with the engine
stopped, nothing at all. -/
def Obligations.IngestTakesOneWholeChunk : Prop :=
  (∀ (s : State) (chunk : List Byte) (queue : List (List Byte)), s.running = true → s.outQueue = chunk :: queue →
    s.pending < 193 →
    exec .ingest s = interpretBytes chunk.length { s with
      outQueue := queue, outChunk := chunk, pc := 0
      trace := s.trace ++ [.outCount (some chunk.length), .outTake chunk] })
    ∧ (∀ (s : State) (chunk : List Byte) (queue : List (List Byte)), s.running = true → s.outQueue = chunk :: queue →
    s.pending < 193 → chunk.length ≤ 64 →
    ∃ (t : State) (k : Nat), exec .ingest s = .next t ∧ k ≤ chunk.length
      ∧ t = { s with outQueue := queue, outChunk := chunk, pc := chunk.length, pending := s.pending + k,
                     writeOnly := t.writeOnly, pendingShiftCount := t.pendingShiftCount, ring := t.ring,
                     trace := t.trace, lineIn := t.lineIn, draws := t.draws }
      ∧ (∀ a, (∀ j, j < k → a % 256 ≠ (s.rdCursor.toNat + s.pending + j) % 256) → ringRead t a = ringRead s a)
      ∧ ∃ new, t.trace = s.trace ++ [.outCount (some chunk.length), .outTake chunk] ++ new)
    ∧ (∀ s : State, s.running = true → s.outQueue = [] →
      exec .ingest s = .next { s with trace := s.trace ++ [.outCount none] })
    ∧ (∀ (s : State) (chunk : List Byte) (queue : List (List Byte)), s.running = true → s.outQueue = chunk :: queue →
      193 ≤ s.pending → exec .ingest s = .next { s with trace := s.trace ++ [.outCount (some chunk.length)] })
    ∧ ∀ s : State, s.running = false → exec .ingest s = .next s

/-- The spec's own inference (R210): a BBR or DATR byte appends one byte to the ring, any other byte of the stream
none, and a chunk of `n` bytes raises `Pending` by at most `n`. -/
def Obligations.ChunkRaisesPendingByAtMostItsLength : Prop :=
  (∀ (s t : State) (b : Byte), exec (decodeByte s.pendingShiftCount s.writeOnly b) s = .next t →
      t.pending = s.pending + (match decodeByte s.pendingShiftCount s.writeOnly b with
        | .bbr _ => 1
        | .datr _ => 1
        | _ => 0))
    ∧ ∀ (s t : State) (chunk : List Byte) (queue : List (List Byte)), s.outQueue = chunk :: queue →
      exec .ingest s = .next t → s.pending ≤ t.pending ∧ t.pending ≤ s.pending + chunk.length

/-- The spec's own inference (R212): the interpreter reads only the bytes, the mode state and the line answers (in the
shift order that the parameters fix), and uses the ring, its cursor and `Pending` only to append: with every register
but those changed at will it has the same outcome, with the changed registers as they were. Ingestion from a state with other values of `JtagMaster`, `SyncMode`, `SpeedMode`, `CurConfig` and `CurAlt`
has the same outcome with those values. -/
def Obligations.InterpreterIgnoresModeFlags : Prop :=
  (∀ (k : Nat) (s other : State),
    interpretBytes k (withOtherRegisters other s) = mapNext (withOtherRegisters other) (interpretBytes k s))
    ∧ ∀ (s : State) (jtagMaster syncMode speedMode : Bool) (curConfig curAlt : Byte),
    exec .ingest (withModeFlags jtagMaster syncMode speedMode curConfig curAlt s)
      = mapNext (withModeFlags jtagMaster syncMode speedMode curConfig curAlt) (exec .ingest s)

/-- `SHIFTR ds` run from bit-bang mode as a chunk of its own: the engine is back in bit-bang mode, as many result
bytes as data bytes are pending, and every data byte made its eight shift calls with an answer each (30_encoding.md
section 6). -/
def Obligations.ShiftReadSequenceReturnsBytes : Prop :=
  ∀ (s : State) (ds : List Byte) (queue : List (List Byte)), s.running = true → s.pendingShiftCount = 0 →
    s.pending < 193 → 1 ≤ ds.length → ds.length ≤ 63 → s.outQueue = pseudoShiftR ds :: queue →
    ∃ t new, exec .ingest s = .next t ∧ t.pendingShiftCount = 0 ∧ t.writeOnly = false
      ∧ t.pending = s.pending + ds.length ∧ t.trace = s.trace ++ new ∧ lineCalls new = (0, 0, 0, 8 * ds.length)
      ∧ (results s.params new).length = ds.length

/-- `SHIFTW ds` run from bit-bang mode as a chunk of its own: exactly the bits of `ds`, in shift order, are shifted
out, nothing is sampled or appended, and the engine is back in bit-bang mode (30_encoding.md section 6). -/
def Obligations.ShiftWriteSequenceSendsBits : Prop :=
  ∀ (s : State) (ds : List Byte) (queue : List (List Byte)), s.running = true → s.pendingShiftCount = 0 →
    s.pending < 193 → 1 ≤ ds.length → ds.length ≤ 63 → s.outQueue = pseudoShiftW ds :: queue →
    exec .ingest s = .next { s with
      outQueue := queue, outChunk := pseudoShiftW ds, pc := ds.length + 1, writeOnly := true, pendingShiftCount := 0
      trace := s.trace ++ [.outCount (some (ds.length + 1)), .outTake (pseudoShiftW ds)] ++ ds.flatMap (fun d => (shiftOrder s.params).map (fun k => .shiftOut (d.getLsbD k))) }

/-- The spec's own inference (R111, on `NOP`; 30_encoding.md section 6): in bit-bang mode nothing can observe `WriteOnly`.
Runs of any length (one step among them) from two states that differ only in it either end alike in everything (the
next state, or the stop), or are both still in bit-bang mode and differ only in `WriteOnly` still, in particular not in
the calls made. And a chunk that is not empty is ingested the same whatever `WriteOnly` holds. -/
def Obligations.WriteOnlyUnobservableInBitBang : Prop :=
  (∀ (k : Nat) (s : State) (w : Bool), s.pendingShiftCount = 0 →
    Host.Core.run Sys2Proof.core k { s with writeOnly := w } = Host.Core.run Sys2Proof.core k s
      ∨ ∃ t, Host.Core.run Sys2Proof.core k s = .next t ∧ t.pendingShiftCount = 0
          ∧ Host.Core.run Sys2Proof.core k { s with writeOnly := w } = .next { t with writeOnly := w })
    ∧ ∀ (s : State) (w : Bool) (b : Byte) (bs : List Byte) (queue : List (List Byte)), s.running = true →
      s.pendingShiftCount = 0 → s.pending < 193 → s.outQueue = (b :: bs) :: queue →
      exec .ingest { s with writeOnly := w } = exec .ingest s

/-! Emission. -/

/-- R226: with the endpoint found free, a data packet takes the oldest `min(Pending, 62)` bytes out of the ring and submits them behind the magic
header; the tick flag is armed under `ARM_SETS_TICK`; no ring byte is written and nothing else changes. -/
def Obligations.DataPacketSendsOldestBytes : Prop :=
  ∀ (s : State) (n : Nat) (packet : List Byte), s.running = true → s.inBusy = false → 0 < s.pending →
    n = min s.pending 62 → packet = [0x31, 0x60] ++ (ringContents s).take n →
    ∃ t, exec .dataPacket s = .next t ∧ ringContents t = (ringContents s).drop n
      ∧ t = { s with rdCursor := BitVec.ofNat 8 (s.rdCursor.toNat + n), pending := s.pending - n, inBusy := true,
                     inPkt := some packet, trace := s.trace ++ [.inBusy false, .inSubmit packet],
                     tickFlag := if s.params.armSetsTick then true else s.tickFlag }

/-- R227: with the engine running, the endpoint free, nothing pending and the tick flag set, the bare header is
submitted and the flag cleared. -/
def Obligations.KeepaliveSendsBareHeader : Prop :=
  ∀ s : State, s.running = true → s.inBusy = false → s.pending = 0 → s.tickFlag = true →
    exec .keepalivePacket s = .next { s with
      tickFlag := false, inBusy := true, inPkt := some [0x31, 0x60]
      trace := s.trace ++ [.inBusy false, .inSubmit [0x31, 0x60]] }

/-- R228: with the endpoint free, nothing pending and the tick flag clear, the emission step does nothing: a running engine
asks whether the endpoint is busy, a stopped one does not even that. -/
def Obligations.NothingToEmitChangesNothing : Prop :=
  ∀ s : State, s.inBusy = false → s.pending = 0 → s.tickFlag = false → s.phase = .emit → s.turns = [] →
    step s = .next { s with phase := .setup, trace := s.trace ++ (if s.running then [.inBusy false] else []) }

/-- The spec's own inference (R229): first in, first out, for every run of any length from every state: the payloads
submitted in the run, then the bytes still pending, are the bytes that were pending, then the results sampled in the
run, in order. No byte is dropped, duplicated or reordered. -/
def Obligations.RingIsFirstInFirstOut : Prop :=
  ∀ (k : Nat) (s t : State), Host.Core.run Sys2Proof.core k s = .next t → ∃ new, t.trace = s.trace ++ new
    ∧ payloads new ++ ringContents t = ringContents s ++ results s.params new

/-- The spec's own inference (R230): every packet submitted in a step begins with the magic header and is 2 to 64
bytes long, and one with an empty payload is submitted only by the keepalive. -/
def Obligations.EveryPacketIsFramed : Prop :=
  ∀ (s t : State) (new : List Call) (packet : List Byte), step s = .next t → t.trace = s.trace ++ new →
    .inSubmit packet ∈ new →
    packet.take 2 = [0x31, 0x60] ∧ 2 ≤ packet.length ∧ packet.length ≤ 64
      ∧ (packet.length = 2 → (nextTurn s).1 = .keepalivePacket)

/-- Idle keepalive, at most once per tick (44_packet_framer.md section 3): while nothing is pending, a step that
submits a packet finds the tick flag set and clears it, and only the tick event sets it. -/
def Obligations.IdleKeepaliveAtMostOncePerTick : Prop :=
  ∀ (s t : State) (new : List Call), step s = .next t → s.pending = 0 → t.trace = s.trace ++ new →
    ((∃ packet, .inSubmit packet ∈ new) → s.tickFlag = true ∧ t.tickFlag = false)
      ∧ (s.tickFlag = false → t.tickFlag = true → (nextTurn s).1 = .tick)

/-- The spec's own inference (R232): after a data packet that empties the ring, the host taking it is followed by one
header-only packet although no tick has occurred, exactly when `ARM_SETS_TICK` holds. -/
def Obligations.ShortTransferFollowsBurst : Prop :=
  ∀ s : State, s.running = true → s.inBusy = false → 0 < s.pending → s.pending ≤ 62 → s.tickFlag = false →
    ∃ t u, exec .dataPacket s = .next t ∧ exec .hostTakesIn t = .next u ∧ u.pending = 0 ∧ u.inBusy = false
      ∧ (s.params.armSetsTick = true → ∃ v, exec .keepalivePacket u = .next v
          ∧ v.trace = u.trace ++ [.inBusy false, .inSubmit [0x31, 0x60]] ∧ v.tickFlag = false)
      ∧ (s.params.armSetsTick = false →
        exec .keepalivePacket u = .next { u with trace := u.trace ++ [.inBusy false] })

/-! The loop. -/

/-- A step runs the decoded instruction. An enabled event at the head of the script is executed as it stands; else (no
turn left, the core's turn, or an event that must wait) the core's next instruction is executed and the next part of
the iteration is due. A pending setup is decoded and executed with the flag cleared and no reply staged, then the
handshake is acknowledged. The byte at the cursor is decoded in the mode it meets and executed, then the cursor
advances by one; a chunk is the run of its bytes from cursor 0. -/
def Obligations.StepRunsTheDecodedInstruction : Prop :=
  (∀ (s : State) (turn : Turn) (rest : List Turn) (i : Instr), s.turns = turn :: rest → turnEnabled s turn = true →
      turnEvent turn = some i → step s = exec i { s with turns := rest })
    ∧ (∀ s : State, s.turns = [] ∨ (∃ turn rest, s.turns = turn :: rest ∧ turnEnabled s turn = false) →
      step s = andThen (exec (coreInstr s) s) (fun t => .next { t with phase := nextPhase t.phase }))
    ∧ (∀ (s : State) (rest : List Turn), s.turns = .core :: rest →
      step s = andThen (exec (coreInstr s) { s with turns := rest }) (fun t => .next { t with phase := nextPhase t.phase }))
    ∧ (∀ s : State, s.setupPending = true →
      exec .setupStep s = andThen (exec (decodeSetup s.params s.setupDesc) { s with setupPending := false, ep0 := .empty })
        (fun t => .next { t with trace := t.trace ++ [.ackHandshake], ep0 := .empty
                                 hostCtl := t.hostCtl ++ [controlResult t.ep0 s.setupDesc.wLength] }))
    ∧ (∀ (s : State) (chunk : List Byte) (queue : List (List Byte)), s.running = true → s.outQueue = chunk :: queue →
      s.pending < 193 →
      exec .ingest s = interpretBytes chunk.length { s with
        outQueue := queue, outChunk := chunk, pc := 0
        trace := s.trace ++ [.outCount (some chunk.length), .outTake chunk] })
    ∧ ∀ (s : State) (k : Nat) (b : Byte), s.outChunk[s.pc]? = some b →
      interpretBytes (k + 1) s = andThen (exec (decodeByte s.pendingShiftCount s.writeOnly b) s)
        (fun t => interpretBytes k { t with pc := t.pc + 1 })

/-- The spec's own inference (R246): in a quiescent state, with no event of another agent, one whole iteration changes
nothing and makes no call but the idempotent queries, `out_count` and `in_busy` of a running engine, one each: an
observer (R57) sees nothing. -/
def Obligations.QuiescentIterationChangesNothing : Prop :=
  ∀ s : State, s.turns = [] → s.phase = .setup → s.setupPending = false →
    (s.running = false
      ∨ ((s.outQueue = [] ∨ 193 ≤ s.pending) ∧ (s.inBusy = true ∨ (s.pending = 0 ∧ s.tickFlag = false)))) →
    ∃ t, Host.Core.run Sys2Proof.core 3 s = .next t
      ∧ t = { s with trace := s.trace ++ (if s.running then [countQuery s, .inBusy s.inBusy] else []) }
      ∧ observable t.trace = observable s.trace

/-- Errors never halt the event loop (45_event_loop.md): from every state whatever, a step is never refused, and the
only fault is the model's own, when the oldest chunk is longer than the room the ring has left. -/
def Obligations.StepStopsOnlyOnRingOverflow : Prop :=
  ∀ s : State, (∀ r, step s ≠ .refused r)
    ∧ ∀ r, step s = .fault r → r = .ringOverflow ∧ s.phase = .ingest ∧ s.running = true
      ∧ ∃ chunk queue, s.outQueue = chunk :: queue ∧ 256 < s.pending + chunk.length

/-- R166: with a setup pending the flag is cleared, the request handled and the handshake acknowledged once, last,
whether or not the engine runs; a step of the loop never refuses it. The host has one result more, as R51 says: an empty
reply where the request made neither call, the stall where it stalled, the first `min(len, wLength)` bytes where it
staged a reply (across a renumeration R306 leaves that open: `VendorRequestsNeverStall`). With none pending nothing
happens. -/
def Obligations.SetupStepHandlesOneRequest : Prop :=
  ∀ s : State,
    (s.setupPending = true → ∃ t new result, exec .setupStep s = .next t ∧ t.setupPending = false
        ∧ t.trace = s.trace ++ new ++ [.ackHandshake] ∧ .ackHandshake ∉ new ∧ t.hostCtl = s.hostCtl ++ [result]
        ∧ ((new.filter isOutcome = [] ∧ result = .data [])
          ∨ (new.filter isOutcome = [.stall] ∧ result = .stall)
          ∨ ∃ bytes, new.filter isOutcome = [.stageReply bytes]
              ∧ (.renumerate ∉ new → result = .data (hostReceives bytes s.setupDesc.wLength))))
      ∧ (s.setupPending = false → exec .setupStep s = .next s)

/-- The global gate (45_event_loop.md): while `Running` is false the engine does nothing at all. -/
def Obligations.StoppedEngineDoesNothing : Prop :=
  ∀ s : State, s.running = false →
    ∀ i ∈ [Instr.ingest, .dataPacket, .keepalivePacket], exec i s = .next s

/-! The events of the other agents. -/

/-- R267: a tick sets the tick flag and nothing else, and no instruction but the keepalive packet clears the flag. -/
def Obligations.TickFlagSetByTickClearedByKeepalive : Prop :=
  (∀ s : State, exec .tick s = .next { s with tickFlag := true })
    ∧ ∀ (i : Instr) (s t : State), exec i s = .next t → s.tickFlag = true → t.tickFlag = false → i = .keepalivePacket

/-- R268: a setup descriptor that arrives while none is pending is latched and the flag set, and nothing else changes;
an event that arrives while one is pending gets no step: the loop lets the core move instead. -/
def Obligations.SetupArrivalLatchesDescriptor : Prop :=
  ∀ (d : SetupDesc) (s : State),
    (s.setupPending = false → exec (.setupArrives d) s = .next { s with setupDesc := d, setupPending := true })
      ∧ ∀ rest, s.setupPending = true → s.turns = .setupArrives d :: rest →
        step s = andThen (exec (coreInstr s) s) (fun t => .next { t with phase := nextPhase t.phase })

/-- R269, R270: a chunk of at most `MAX_CHUNK` bytes joins the tail of the transport's queue and sets no flag; the host
takes the submitted packet whole and the endpoint is free again. -/
def Obligations.TransportDeliversChunksAndPackets : Prop :=
  (∀ (chunk : List Byte) (s : State), chunk.length ≤ s.params.maxChunk →
      exec (.chunkArrives chunk) s = .next { s with outQueue := s.outQueue ++ [chunk] })
    ∧ ∀ (packet : List Byte) (s : State), s.inBusy = true → s.inPkt = some packet →
      exec .hostTakesIn s = .next { s with inBusy := false, inPkt := none, hostIn := s.hostIn ++ [packet] }

/-- Where the model goes beyond the rules of the instructions. Its stops (log 14): exec refuses by name an event whose
precondition does not hold, and a data-plane command in a mode in which no byte is read as it. What it takes: a chunk of
any length joins the queue (log 24), and where the endpoint is busy with no packet held, which only a renumeration
leaves possible (log 11), HOST_TAKES_IN frees the endpoint and delivers nothing. -/
def Obligations.OutsideTheRulesOfInstructions : Prop :=
  ∀ s : State,
    (∀ chunk, exec (.chunkArrives chunk) s = .next { s with outQueue := s.outQueue ++ [chunk] })
      ∧ (s.inBusy = true → s.inPkt = none → exec .hostTakesIn s = .next { s with inBusy := false })
      ∧ (∀ d, s.setupPending = true → exec (.setupArrives d) s = .refused .setupAlreadyPending)
      ∧ (s.inBusy = false → exec .hostTakesIn s = .refused .noPacketSubmitted)
      ∧ (s.pendingShiftCount ≠ 0 → ∀ l : Six, ∀ i ∈ [Instr.bbw l, .bbr l, .shw l, .shr l],
          exec i s = .refused .notInThisMode)
      ∧ ∀ d : Byte, (s.pendingShiftCount = 0 ∨ s.writeOnly = false → exec (.datw d) s = .refused .notInThisMode)
        ∧ (s.pendingShiftCount = 0 ∨ s.writeOnly = true → exec (.datr d) s = .refused .notInThisMode)

/-! Standard requests, IN direction. -/

/-- R141, R142: GET_CONFIGURATION and GET_INTERFACE, whatever the other fields, reply with the one byte stored. -/
def Obligations.GetConfigurationAndInterfaceReply : Prop :=
  (∀ (p : Params) (d : SetupDesc), d.reqType = 0 → d.dirIn = true →
      (d.bRequest = 0x08 → decodeSetup p d = .getConfiguration) ∧ (d.bRequest = 0x0A → decodeSetup p d = .getInterface))
    ∧ ∀ s : State, Replies .getConfiguration s [] [s.curConfig] ∧ Replies .getInterface s [] [s.curAlt]

/-- R144 to R147: GET_DESCRIPTOR of the four kinds asks for its descriptor and stages the whole of it, as the references
name it. -/
def Obligations.DescriptorsStagedWhole : Prop :=
  (∀ (p : Params) (d : SetupDesc), d.reqType = 0 → d.dirIn = true → d.bRequest = 0x06 →
      (d.wValueH = 0x01 → decodeSetup p d = .getDescriptorDevice)
        ∧ (d.wValueH = 0x06 → decodeSetup p d = .getDescriptorDeviceQualifier)
        ∧ (d.wValueH = 0x02 → decodeSetup p d = .getDescriptorConfiguration)
        ∧ (d.wValueH = 0x07 → decodeSetup p d = .getDescriptorOtherSpeed))
    ∧ ∀ (s : State) (set : DescSet), set = (if s.speedMode then s.desc.alternate else s.desc.normal) →
      Replies .getDescriptorDevice s [.descriptor .device 0 set.device] set.device
        ∧ Replies .getDescriptorDeviceQualifier s [.descriptor .deviceQualifier 0 set.deviceQualifier] set.deviceQualifier
        ∧ Replies .getDescriptorConfiguration s [.descriptor .configuration 0 set.configuration] set.configuration
        ∧ Replies .getDescriptorOtherSpeed s [.descriptor .otherSpeed 0 set.otherSpeed] set.otherSpeed

/-- R148: a string index below `NUM_STRINGS` replies with that string; from `NUM_STRINGS` on it stalls. -/
def Obligations.StringIndexOutOfRangeStalls : Prop :=
  (∀ (p : Params) (d : SetupDesc), d.reqType = 0 → d.dirIn = true → d.bRequest = 0x06 → d.wValueH = 0x03 →
      decodeSetup p d = .getDescriptorString d.wValueL)
    ∧ ∀ (s : State) (index : Byte) (bytes : List Byte),
      (index.toNat < s.params.numStrings →
        (if s.speedMode then s.desc.alternate else s.desc.normal).strings[index.toNat]? = some bytes →
        Replies (.getDescriptorString index) s [.descriptor .string index.toNat bytes] bytes)
      ∧ (s.params.numStrings ≤ index.toNat → Stalls (.getDescriptorString index) s)

/-- R150, R151: GET_STATUS of the device and of an interface reply with two zero bytes. -/
def Obligations.DeviceAndInterfaceStatusIsZero : Prop :=
  (∀ (p : Params) (d : SetupDesc), d.reqType = 0 → d.dirIn = true → d.bRequest = 0x00 →
      (d.recipient = 0 → decodeSetup p d = .getStatusDevice) ∧ (d.recipient = 1 → decodeSetup p d = .getStatusInterface))
    ∧ ∀ s : State, Replies .getStatusDevice s [] [0x00, 0x00] ∧ Replies .getStatusInterface s [] [0x00, 0x00]

/-- R154: GET_STATUS of a plausible endpoint (1, or even and at most 8, the direction bit stripped) replies with its
stall bit, in one byte or two as `EP_STATUS_LEN` says; of any other it stalls. -/
def Obligations.EndpointStatusReply : Prop :=
  (∀ (p : Params) (d : SetupDesc), d.reqType = 0 → d.dirIn = true → d.bRequest = 0x00 → d.recipient = 2 →
      decodeSetup p d = .getStatusEndpoint d.wIndexL)
    ∧ ∀ (s : State) (a : Byte),
      (a.toNat % 128 ∈ [0, 1, 2, 4, 6, 8] →
        Replies (.getStatusEndpoint a) s [.epStallGet a (epStalled a s)]
          ((if epStalled a s then 0x01 else 0x00) :: (if s.params.epStatusLen = .two then [0x00] else [])))
      ∧ (a.toNat % 128 ∉ [0, 1, 2, 4, 6, 8] → Stalls (.getStatusEndpoint a) s)

/-! Requests that always stall. -/

/-- R137, R138, R149, R155, R156, R157, R162, R164, R165: the requests that are unsupported whatever their operands:
each decodes to its row and stalls, and writes no state. -/
def Obligations.UnsupportedRequestsStall : Prop :=
  (∀ (p : Params) (d : SetupDesc),
      (d.reqType = 1 → decodeSetup p d = .classAny) ∧ (d.reqType = 3 → decodeSetup p d = .reservedTypeAny)
      ∧ (d.reqType = 0 → d.dirIn = true →
          (d.bRequest = 0x06 → d.wValueH ∉ descriptorTypes → decodeSetup p d = .getDescriptorOther d.wValueH)
          ∧ (d.bRequest = 0x00 → 3 ≤ d.recipient.toNat → decodeSetup p d = .getStatusOther d.recipient)
          ∧ (d.bRequest = 0x0C → decodeSetup p d = .synchFrame)
          ∧ (d.bRequest ∉ standardInCodes → decodeSetup p d = .standardInOther d.bRequest))
      ∧ (d.reqType = 0 → d.dirIn = false →
          (d.bRequest = 0x01 → d.recipient ≠ 0 → d.recipient ≠ 2 → decodeSetup p d = .clearFeatureOther d.recipient)
          ∧ (d.bRequest = 0x03 → d.recipient ≠ 0 → d.recipient ≠ 2 → decodeSetup p d = .setFeatureOther d.recipient)
          ∧ (d.bRequest = 0x07 → decodeSetup p d = .setDescriptor)
          ∧ (d.bRequest ∉ standardOutCodes → decodeSetup p d = .standardOutOther d.bRequest)))
    ∧ ∀ (s : State) (b : Byte) (r : BitVec 5),
      ∀ i ∈ [Instr.classAny, .reservedTypeAny, .getDescriptorOther b, .getStatusOther r, .synchFrame, .standardInOther b,
             .clearFeatureOther r, .setFeatureOther r, .setDescriptor, .standardOutOther b], Stalls i s

/-! Standard requests, OUT direction. -/

/-- R152, R153: SET_CONFIGURATION and SET_INTERFACE store value-low, unchecked, and change nothing else. -/
def Obligations.SetConfigurationAndInterfaceStore : Prop :=
  (∀ (p : Params) (d : SetupDesc), d.reqType = 0 → d.dirIn = false →
      (d.bRequest = 0x09 → decodeSetup p d = .setConfiguration d.wValueL)
        ∧ (d.bRequest = 0x0B → decodeSetup p d = .setInterface d.wValueL))
    ∧ ∀ (s : State) (v : Byte), exec (.setConfiguration v) s = .next { s with curConfig := v }
      ∧ exec (.setInterface v) s = .next { s with curAlt := v }

/-- R158, R159 and, where marked, the model: the halt feature of a plausible endpoint is cleared (and its data toggle
reset, after, to the toggle that this model names `data0`) or set; another selector or an implausible endpoint stalls.
That every other endpoint address keeps its stall bit and its toggle is the model's (log 5, PRESUMED, unsafe for
addresses that share a register: 91_not_in_source.md N17). -/
def Obligations.EndpointHaltFeature : Prop :=
  (∀ (p : Params) (d : SetupDesc), d.reqType = 0 → d.dirIn = false → d.recipient = 2 →
      (d.bRequest = 0x01 → decodeSetup p d = .clearFeatureEndpoint d.wValueL d.wIndexL)
        ∧ (d.bRequest = 0x03 → decodeSetup p d = .setFeatureEndpoint d.wValueL d.wIndexL))
    ∧ ∀ (s : State) (sel a : Byte),
      (sel = 0 ∧ a.toNat % 128 ∈ [0, 1, 2, 4, 6, 8] →
        (∃ t, exec (.clearFeatureEndpoint sel a) s = .next t ∧ epStalled a t = false ∧ epToggleOf a t = .data0
          ∧ (∀ b, b ≠ a → epStalled b t = epStalled b s ∧ epToggleOf b t = epToggleOf b s)
          ∧ t = { s with epStall := t.epStall, epToggle := t.epToggle,
                         trace := s.trace ++ [.epStallSet a false, .epToggleReset a] })
        ∧ ∃ t, exec (.setFeatureEndpoint sel a) s = .next t ∧ epStalled a t = true
          ∧ (∀ b, b ≠ a → epStalled b t = epStalled b s)
          ∧ t = { s with epStall := t.epStall, trace := s.trace ++ [.epStallSet a true] })
      ∧ (¬(sel = 0 ∧ a.toNat % 128 ∈ [0, 1, 2, 4, 6, 8]) →
        Stalls (.clearFeatureEndpoint sel a) s ∧ Stalls (.setFeatureEndpoint sel a) s)

/-- R160, R161, R163: a device feature request is accepted, without effect, only for the test-mode selector, else it
stalls; SET_ADDRESS has no effect. -/
def Obligations.DeviceFeatureAndSetAddress : Prop :=
  (∀ (p : Params) (d : SetupDesc), d.reqType = 0 → d.dirIn = false →
      (d.bRequest = 0x01 → d.recipient = 0 → decodeSetup p d = .clearFeatureDevice d.wValueL)
        ∧ (d.bRequest = 0x03 → d.recipient = 0 → decodeSetup p d = .setFeatureDevice d.wValueL)
        ∧ (d.bRequest = 0x05 → decodeSetup p d = .setAddress))
    ∧ ∀ (s : State) (sel : Byte), NoEffect .setAddress s
      ∧ (sel = 0x02 → NoEffect (.clearFeatureDevice sel) s ∧ NoEffect (.setFeatureDevice sel) s)
      ∧ (sel ≠ 0x02 → Stalls (.clearFeatureDevice sel) s ∧ Stalls (.setFeatureDevice sel) s)

/-- After the halt feature of a plausible endpoint is set, its status is stalled, and after it is cleared it is not
and its data toggle is the reset one, which this model names `data0` (log 5) (41_control_dispatch.md sections 2 and
3). -/
def Obligations.HaltFeatureShowsInStatus : Prop :=
  ∀ (s : State) (a : Byte), plausible a = true →
    (∃ t, exec (.setFeatureEndpoint 0 a) s = .next t
        ∧ Replies (.getStatusEndpoint a) t [.epStallGet a true] (endpointStatus s.params.epStatusLen true))
      ∧ ∃ t, exec (.clearFeatureEndpoint 0 a) s = .next t ∧ epToggleOf a t = .data0
        ∧ Replies (.getStatusEndpoint a) t [.epStallGet a false] (endpointStatus s.params.epStatusLen false)

/-! Vendor requests. -/

/-- R181, R182: START sets `Running` and changes nothing else; every other vendor OUT request has no effect. -/
def Obligations.StartSetsRunning : Prop :=
  (∀ (p : Params) (d : SetupDesc), d.reqType = 2 → d.dirIn = false →
      decodeSetup p d = if d.bRequest = p.vrStart then .start else .vendorOutOther d.bRequest)
    ∧ ∀ (s : State) (code : Byte), exec .start s = .next { s with running := true }
      ∧ NoEffect (.vendorOutOther code) s

/-- R183: READ_CONFIG replies with the two bytes of the Configuration Block at the even offset `2 * (index mod 64)`,
read one after the other and clipped to the requested length; it never stalls. -/
def Obligations.ReadConfigRepliesTwoBytes : Prop :=
  (∀ (p : Params) (d : SetupDesc), d.reqType = 2 → d.dirIn = true → d.bRequest = p.vrReadConfig →
      decodeSetup p d = .readConfig d.wIndexL d.wLength)
    ∧ ∀ (s : State) (x : Byte) (n : Half) (o : Nat) (b0 b1 : Byte), o = 2 * (x.toNat % 64) →
      s.configBlock.toList[o]? = some b0 → s.configBlock.toList[o + 1]? = some b1 →
      Replies (.readConfig x n) s [.byteAt o (some b0), .byteAt (o + 1) (some b1)] ([b0, b1].take n.toNat)

/-- R184: CHANGE_SPEED toggles `SpeedMode`, renumerates, and stages the echo of the new value, in that order; no other
register of the core changes. What the transport holds afterwards is left open. -/
def Obligations.ChangeSpeedTogglesAndRenumerates : Prop :=
  (∀ (p : Params) (d : SetupDesc), p.wf = true → d.reqType = 2 → d.dirIn = true → d.bRequest = p.vrChangeSpeed →
      decodeSetup p d = .changeSpeed)
    ∧ ∀ s : State, ∃ t delivered, exec .changeSpeed s = .next t
      ∧ t.ep0 = .staged [if s.speedMode then 0x00 else 0x01] delivered
      ∧ t = { s with speedMode := !s.speedMode, ep0 := t.ep0,
                     trace := s.trace ++ [.renumerate, .stageReply [if s.speedMode then 0x00 else 0x01]],
                     outQueue := t.outQueue, inBusy := t.inBusy, inPkt := t.inPkt, epStall := t.epStall,
                     epToggle := t.epToggle, renums := t.renums }

/-- R185, R186: CHANGE_MASTER toggles `JtagMaster` with an empty reply; CHANGE_MODE toggles `SyncMode` and echoes the
new value; nothing else changes. -/
def Obligations.MasterAndModeToggle : Prop :=
  (∀ (p : Params) (d : SetupDesc), p.wf = true → d.reqType = 2 → d.dirIn = true →
      (d.bRequest = p.vrChangeMaster → decodeSetup p d = .changeMaster)
        ∧ (d.bRequest = p.vrChangeMode → decodeSetup p d = .changeMode))
    ∧ ∀ s : State,
      exec .changeMaster s = .next { s with
        jtagMaster := !s.jtagMaster, ep0 := .staged [] true, trace := s.trace ++ [.stageReply []] }
      ∧ exec .changeMode s = .next { s with
        syncMode := !s.syncMode, ep0 := .staged [if s.syncMode then 0x00 else 0x01] true
        trace := s.trace ++ [.stageReply [if s.syncMode then 0x00 else 0x01]] }

/-- R187, R188: GET_VERSION replies with the version string and nothing around it; an unknown vendor IN code replies
with the placeholder bytes clipped to the requested length. -/
def Obligations.VersionAndPlaceholderReply : Prop :=
  (∀ (p : Params) (d : SetupDesc), p.wf = true → d.reqType = 2 → d.dirIn = true →
      (d.bRequest = p.vrGetVersion → decodeSetup p d = .getVersion)
        ∧ (d.bRequest ∉ p.vendorInCodes → decodeSetup p d = .vendorInOther d.bRequest d.wLength))
    ∧ ∀ (s : State) (code : Byte) (n : Half), Replies .getVersion s [] s.params.fwVersion
      ∧ Replies (.vendorInOther code n) s [] ([0x36, 0x83].take n.toNat)

/-! The whole machine. -/

/-- R21: `Running` is set only by the vendor OUT request with the start code, through the setup step, and no step
clears it. -/
def Obligations.RunningSetOnlyByStart : Prop :=
  ∀ s t : State, step s = .next t → t.running ≠ s.running →
    t.running = true ∧ (nextTurn s).1 = .setupStep ∧ s.setupPending = true ∧ s.setupDesc.reqType = 2
      ∧ s.setupDesc.dirIn = false ∧ s.setupDesc.bRequest = s.params.vrStart

/-- R167: a request that stalls writes no register of the core and makes no call but the stall. -/
def Obligations.StalledRequestWritesNothing : Prop :=
  ∀ (i : Instr) (s t : State), isRequest i = true → s.ep0 = .empty → exec i s = .next t → t.ep0 = .stalled →
    t = { s with ep0 := .stalled, trace := s.trace ++ [.stall] }

/-- The spec's own inference (R189): no vendor request stalls. The model's (log 21): only a request that renumerates can
lose its reply, and where it does not lose it the host receives the first `min(len, wLength)` bytes. -/
def Obligations.VendorRequestsNeverStall : Prop :=
  ∀ s : State, s.setupPending = true → s.setupDesc.reqType = 2 →
    ∃ t new result, exec .setupStep s = .next t ∧ t.trace = s.trace ++ new ∧ .stall ∉ new
      ∧ t.hostCtl = s.hostCtl ++ [result] ∧ result ≠ .stall ∧ (result = .lost → .renumerate ∈ new)
      ∧ ∀ bytes, .stageReply bytes ∈ new →
          result = .lost ∨ result = .data (hostReceives bytes s.setupDesc.wLength)

/-- What is fixed for a machine stays fixed in every step: the Configuration Block, the descriptors and the parameters
(10_state.md section 1). -/
def Obligations.FixedDataNeverChanges : Prop :=
  ∀ s t : State, step s = .next t → t.configBlock = s.configBlock ∧ t.desc = s.desc ∧ t.params = s.params

/-- R209: the mode state changes in no step but an ingestion that takes a chunk; in particular not in a control
request, a renumeration, an emission, an event, or while the gate holds ingestion off. With `m` bytes of a byte-shift
run left, a chunk of at most `m` bytes is data to its end, whatever chunk the run began in, and leaves `m` less its
length. -/
def Obligations.ModeStatePersists : Prop :=
  (∀ s t : State, step s = .next t → ((nextTurn s).1 ≠ .ingest ∨ ingestEnabled s = false) →
    t.writeOnly = s.writeOnly ∧ t.pendingShiftCount = s.pendingShiftCount)
    ∧ ∀ (s : State) (chunk : List Byte) (queue : List (List Byte)), s.running = true → s.outQueue = chunk :: queue →
      s.pending < 193 → chunk.length ≤ s.pendingShiftCount.toNat →
      ∃ t new, exec .ingest s = .next t ∧ t.writeOnly = s.writeOnly
        ∧ t.pendingShiftCount.toNat = s.pendingShiftCount.toNat - chunk.length ∧ t.trace = s.trace ++ new
        ∧ lineCalls new = if s.writeOnly then (0, 0, 8 * chunk.length, 0) else (0, 0, 0, 8 * chunk.length)

/-- A control request touches no register of the data plane but `Running`: the ring, its cursor and count, the tick
flag, the mode state and the chunk cursor stay (the spec's own inference R190). -/
def Obligations.ControlLeavesDataPlaneAlone : Prop :=
  ∀ s t : State, exec .setupStep s = .next t →
    t.ring = s.ring ∧ t.rdCursor = s.rdCursor ∧ t.pending = s.pending ∧ t.tickFlag = s.tickFlag
      ∧ t.writeOnly = s.writeOnly ∧ t.pendingShiftCount = s.pendingShiftCount ∧ t.pc = s.pc ∧ t.outChunk = s.outChunk
      ∧ (∀ a, ringRead t a = ringRead s a) ∧ (s.running = true → t.running = true)

/-- The data plane touches no register of the control plane: an ingestion or a packet changes no stored configuration,
no mode flag, no setup and no control result (43_dataplane_interpreter.md section 4). -/
def Obligations.DataPlaneLeavesControlAlone : Prop :=
  ∀ (i : Instr) (s t : State), i ∈ [Instr.ingest, .dataPacket, .keepalivePacket] → exec i s = .next t →
    t.curConfig = s.curConfig ∧ t.curAlt = s.curAlt ∧ t.speedMode = s.speedMode ∧ t.jtagMaster = s.jtagMaster
      ∧ t.syncMode = s.syncMode ∧ t.setupPending = s.setupPending ∧ t.setupDesc = s.setupDesc ∧ t.ep0 = s.ep0
      ∧ t.epStall = s.epStall ∧ t.epToggle = s.epToggle ∧ t.hostCtl = s.hostCtl ∧ t.running = s.running

/-! The Configuration Store. -/

/-- R123, R125, R126: for every admitted set of inputs the checksum computed over bytes 0 to 125 of the built block, 63
pairs from the seed on, each with its odd byte shifted left by 8 and its even byte XORed in and a rotation left by one
after it, equals the value stored, low byte first, at bytes 126 and 127; and so does what the model calls `checksum`. -/
def Obligations.ChecksumStoredInBlock : Prop :=
  ∀ (p : Params), p.stringsFit = true → ∃ block, cfgBuild p = some block
    ∧ (List.range 63).foldl (fun (acc : Half) i =>
        (acc ^^^ (((block.toList.getD (2 * i + 1) 0).setWidth 16 <<< 8) ^^^ (block.toList.getD (2 * i) 0).setWidth 16)).rotateLeft 1)
        p.cksumSeed = block.toList.getD 127 0 ++ block.toList.getD 126 0
    ∧ checksum p.cksumSeed (block.toList.take 126) = block.toList.getD 127 0 ++ block.toList.getD 126 0

/-- R121, R122: the layout of a built block: the fields before the string table, the table's six bytes (each offset is
`STR_BASE` plus the offset at which that string begins, each length that of the string), the strings' own bytes, the
order table behind them, and zeros up to the checksum. -/
def Obligations.BlockLayoutAndStringTable : Prop :=
  ∀ (p : Params) (block : Vector Byte 128), cfgBuild p = some block →
    block.toList.take 14 = p.cfgReserved.toList ++ p.cfgIdentity.toList ++ p.cfgPower.toList ++ p.cfgMarker.toList
        ++ p.cfgUsbVer.toList
      ∧ (∀ off ∈ [(14, 20, p.cfgStr1), (16, 20 + p.cfgStr1.length, p.cfgStr2),
               (18, 20 + p.cfgStr1.length + p.cfgStr2.length, p.cfgStr3)],
          block.toList.getD off.1 0 = p.strBase + BitVec.ofNat 8 off.2.1
            ∧ (block.toList.getD (off.1 + 1) 0).toNat = off.2.2.length
            ∧ (block.toList.drop off.2.1).take off.2.2.length = off.2.2)
      ∧ ∀ e, e = 20 + p.cfgStr1.length + p.cfgStr2.length + p.cfgStr3.length →
          (block.toList.drop e).take 4 = p.cfgStrOrder.toList ∧ ∀ k, e + 4 ≤ k → k < 126 → block.toList.getD k 0 = 0
end

