-- ==== Sys2Proof/Laws/Outcome.lean ====
section
/-! SUPPORT. The laws of going on from an outcome. -/

namespace Sys2Proof.Machine

@[simp] theorem andThen_next (s : State) (f : State → Out) : andThen (.next s) f = f s := rfl

@[simp] theorem andThen_fault (r : Fault) (f : State → Out) : andThen (.fault r) f = .fault r := rfl

@[simp] theorem andThen_refused (r : Refusal) (f : State → Out) : andThen (.refused r) f = .refused r := rfl

theorem andThen_assoc (o : Out) (f g : State → Out) :
    andThen (andThen o f) g = andThen o (fun s => andThen (f s) g) := by
  cases o <;> rfl

/-- An outcome gone on from is a next state only through a next state of each part. -/
theorem andThen_eq_next {o : Out} {f : State → Out} {t : State} :
    andThen o f = .next t ↔ ∃ m, o = .next m ∧ f m = .next t := by
  cases o <;> simp

theorem andThen_eq_fault {o : Out} {f : State → Out} {r : Fault} :
    andThen o f = .fault r ↔ o = .fault r ∨ ∃ m, o = .next m ∧ f m = .fault r := by
  cases o <;> simp

theorem andThen_eq_refused {o : Out} {f : State → Out} {r : Refusal} :
    andThen o f = .refused r ↔ o = .refused r ∨ ∃ m, o = .next m ∧ f m = .refused r := by
  cases o <;> simp

end Sys2Proof.Machine
end

