-- ==== Sys2Proof/Laws/State.lean ====
section
/-! SUPPORT. One lemma per field per named update of the state, true by rfl, so that no later proof unfolds an update. -/

namespace Sys2Proof.Machine

variable (s : State)

@[simp] theorem call_params (c : Call) : (call c s).params = s.params := rfl
@[simp] theorem call_running (c : Call) : (call c s).running = s.running := rfl
@[simp] theorem call_writeOnly (c : Call) : (call c s).writeOnly = s.writeOnly := rfl
@[simp] theorem call_pendingShiftCount (c : Call) : (call c s).pendingShiftCount = s.pendingShiftCount := rfl
@[simp] theorem call_ring (c : Call) : (call c s).ring = s.ring := rfl
@[simp] theorem call_rdCursor (c : Call) : (call c s).rdCursor = s.rdCursor := rfl
@[simp] theorem call_pending (c : Call) : (call c s).pending = s.pending := rfl
@[simp] theorem call_tickFlag (c : Call) : (call c s).tickFlag = s.tickFlag := rfl
@[simp] theorem call_setupPending (c : Call) : (call c s).setupPending = s.setupPending := rfl
@[simp] theorem call_setupDesc (c : Call) : (call c s).setupDesc = s.setupDesc := rfl
@[simp] theorem call_curConfig (c : Call) : (call c s).curConfig = s.curConfig := rfl
@[simp] theorem call_curAlt (c : Call) : (call c s).curAlt = s.curAlt := rfl
@[simp] theorem call_speedMode (c : Call) : (call c s).speedMode = s.speedMode := rfl
@[simp] theorem call_jtagMaster (c : Call) : (call c s).jtagMaster = s.jtagMaster := rfl
@[simp] theorem call_syncMode (c : Call) : (call c s).syncMode = s.syncMode := rfl
@[simp] theorem call_configBlock (c : Call) : (call c s).configBlock = s.configBlock := rfl
@[simp] theorem call_desc (c : Call) : (call c s).desc = s.desc := rfl
@[simp] theorem call_pc (c : Call) : (call c s).pc = s.pc := rfl
@[simp] theorem call_outChunk (c : Call) : (call c s).outChunk = s.outChunk := rfl
@[simp] theorem call_outQueue (c : Call) : (call c s).outQueue = s.outQueue := rfl
@[simp] theorem call_inBusy (c : Call) : (call c s).inBusy = s.inBusy := rfl
@[simp] theorem call_inPkt (c : Call) : (call c s).inPkt = s.inPkt := rfl
@[simp] theorem call_ep0 (c : Call) : (call c s).ep0 = s.ep0 := rfl
@[simp] theorem call_epStall (c : Call) : (call c s).epStall = s.epStall := rfl
@[simp] theorem call_epToggle (c : Call) : (call c s).epToggle = s.epToggle := rfl
@[simp] theorem call_trace (c : Call) : (call c s).trace = s.trace ++ [c] := rfl
@[simp] theorem call_hostIn (c : Call) : (call c s).hostIn = s.hostIn := rfl
@[simp] theorem call_hostCtl (c : Call) : (call c s).hostCtl = s.hostCtl := rfl
@[simp] theorem call_phase (c : Call) : (call c s).phase = s.phase := rfl
@[simp] theorem call_turns (c : Call) : (call c s).turns = s.turns := rfl
@[simp] theorem call_lineIn (c : Call) : (call c s).lineIn = s.lineIn := rfl
@[simp] theorem call_draws (c : Call) : (call c s).draws = s.draws := rfl
@[simp] theorem call_renums (c : Call) : (call c s).renums = s.renums := rfl

@[simp] theorem stageReply_params (bytes : List Byte) : (stageReply bytes s).params = s.params := rfl
@[simp] theorem stageReply_running (bytes : List Byte) : (stageReply bytes s).running = s.running := rfl
@[simp] theorem stageReply_writeOnly (bytes : List Byte) : (stageReply bytes s).writeOnly = s.writeOnly := rfl
@[simp] theorem stageReply_pendingShiftCount (bytes : List Byte) : (stageReply bytes s).pendingShiftCount = s.pendingShiftCount := rfl
@[simp] theorem stageReply_ring (bytes : List Byte) : (stageReply bytes s).ring = s.ring := rfl
@[simp] theorem stageReply_rdCursor (bytes : List Byte) : (stageReply bytes s).rdCursor = s.rdCursor := rfl
@[simp] theorem stageReply_pending (bytes : List Byte) : (stageReply bytes s).pending = s.pending := rfl
@[simp] theorem stageReply_tickFlag (bytes : List Byte) : (stageReply bytes s).tickFlag = s.tickFlag := rfl
@[simp] theorem stageReply_setupPending (bytes : List Byte) : (stageReply bytes s).setupPending = s.setupPending := rfl
@[simp] theorem stageReply_setupDesc (bytes : List Byte) : (stageReply bytes s).setupDesc = s.setupDesc := rfl
@[simp] theorem stageReply_curConfig (bytes : List Byte) : (stageReply bytes s).curConfig = s.curConfig := rfl
@[simp] theorem stageReply_curAlt (bytes : List Byte) : (stageReply bytes s).curAlt = s.curAlt := rfl
@[simp] theorem stageReply_speedMode (bytes : List Byte) : (stageReply bytes s).speedMode = s.speedMode := rfl
@[simp] theorem stageReply_jtagMaster (bytes : List Byte) : (stageReply bytes s).jtagMaster = s.jtagMaster := rfl
@[simp] theorem stageReply_syncMode (bytes : List Byte) : (stageReply bytes s).syncMode = s.syncMode := rfl
@[simp] theorem stageReply_configBlock (bytes : List Byte) : (stageReply bytes s).configBlock = s.configBlock := rfl
@[simp] theorem stageReply_desc (bytes : List Byte) : (stageReply bytes s).desc = s.desc := rfl
@[simp] theorem stageReply_pc (bytes : List Byte) : (stageReply bytes s).pc = s.pc := rfl
@[simp] theorem stageReply_outChunk (bytes : List Byte) : (stageReply bytes s).outChunk = s.outChunk := rfl
@[simp] theorem stageReply_outQueue (bytes : List Byte) : (stageReply bytes s).outQueue = s.outQueue := rfl
@[simp] theorem stageReply_inBusy (bytes : List Byte) : (stageReply bytes s).inBusy = s.inBusy := rfl
@[simp] theorem stageReply_inPkt (bytes : List Byte) : (stageReply bytes s).inPkt = s.inPkt := rfl
@[simp] theorem stageReply_ep0 (bytes : List Byte) : (stageReply bytes s).ep0 = .staged bytes true := rfl
@[simp] theorem stageReply_epStall (bytes : List Byte) : (stageReply bytes s).epStall = s.epStall := rfl
@[simp] theorem stageReply_epToggle (bytes : List Byte) : (stageReply bytes s).epToggle = s.epToggle := rfl
@[simp] theorem stageReply_trace (bytes : List Byte) : (stageReply bytes s).trace = s.trace ++ [.stageReply bytes] := rfl
@[simp] theorem stageReply_hostIn (bytes : List Byte) : (stageReply bytes s).hostIn = s.hostIn := rfl
@[simp] theorem stageReply_hostCtl (bytes : List Byte) : (stageReply bytes s).hostCtl = s.hostCtl := rfl
@[simp] theorem stageReply_phase (bytes : List Byte) : (stageReply bytes s).phase = s.phase := rfl
@[simp] theorem stageReply_turns (bytes : List Byte) : (stageReply bytes s).turns = s.turns := rfl
@[simp] theorem stageReply_lineIn (bytes : List Byte) : (stageReply bytes s).lineIn = s.lineIn := rfl
@[simp] theorem stageReply_draws (bytes : List Byte) : (stageReply bytes s).draws = s.draws := rfl
@[simp] theorem stageReply_renums (bytes : List Byte) : (stageReply bytes s).renums = s.renums := rfl

@[simp] theorem protocolStall_params : (protocolStall s).params = s.params := rfl
@[simp] theorem protocolStall_running : (protocolStall s).running = s.running := rfl
@[simp] theorem protocolStall_writeOnly : (protocolStall s).writeOnly = s.writeOnly := rfl
@[simp] theorem protocolStall_pendingShiftCount : (protocolStall s).pendingShiftCount = s.pendingShiftCount := rfl
@[simp] theorem protocolStall_ring : (protocolStall s).ring = s.ring := rfl
@[simp] theorem protocolStall_rdCursor : (protocolStall s).rdCursor = s.rdCursor := rfl
@[simp] theorem protocolStall_pending : (protocolStall s).pending = s.pending := rfl
@[simp] theorem protocolStall_tickFlag : (protocolStall s).tickFlag = s.tickFlag := rfl
@[simp] theorem protocolStall_setupPending : (protocolStall s).setupPending = s.setupPending := rfl
@[simp] theorem protocolStall_setupDesc : (protocolStall s).setupDesc = s.setupDesc := rfl
@[simp] theorem protocolStall_curConfig : (protocolStall s).curConfig = s.curConfig := rfl
@[simp] theorem protocolStall_curAlt : (protocolStall s).curAlt = s.curAlt := rfl
@[simp] theorem protocolStall_speedMode : (protocolStall s).speedMode = s.speedMode := rfl
@[simp] theorem protocolStall_jtagMaster : (protocolStall s).jtagMaster = s.jtagMaster := rfl
@[simp] theorem protocolStall_syncMode : (protocolStall s).syncMode = s.syncMode := rfl
@[simp] theorem protocolStall_configBlock : (protocolStall s).configBlock = s.configBlock := rfl
@[simp] theorem protocolStall_desc : (protocolStall s).desc = s.desc := rfl
@[simp] theorem protocolStall_pc : (protocolStall s).pc = s.pc := rfl
@[simp] theorem protocolStall_outChunk : (protocolStall s).outChunk = s.outChunk := rfl
@[simp] theorem protocolStall_outQueue : (protocolStall s).outQueue = s.outQueue := rfl
@[simp] theorem protocolStall_inBusy : (protocolStall s).inBusy = s.inBusy := rfl
@[simp] theorem protocolStall_inPkt : (protocolStall s).inPkt = s.inPkt := rfl
@[simp] theorem protocolStall_ep0 : (protocolStall s).ep0 = .stalled := rfl
@[simp] theorem protocolStall_epStall : (protocolStall s).epStall = s.epStall := rfl
@[simp] theorem protocolStall_epToggle : (protocolStall s).epToggle = s.epToggle := rfl
@[simp] theorem protocolStall_trace : (protocolStall s).trace = s.trace ++ [.stall] := rfl
@[simp] theorem protocolStall_hostIn : (protocolStall s).hostIn = s.hostIn := rfl
@[simp] theorem protocolStall_hostCtl : (protocolStall s).hostCtl = s.hostCtl := rfl
@[simp] theorem protocolStall_phase : (protocolStall s).phase = s.phase := rfl
@[simp] theorem protocolStall_turns : (protocolStall s).turns = s.turns := rfl
@[simp] theorem protocolStall_lineIn : (protocolStall s).lineIn = s.lineIn := rfl
@[simp] theorem protocolStall_draws : (protocolStall s).draws = s.draws := rfl
@[simp] theorem protocolStall_renums : (protocolStall s).renums = s.renums := rfl

@[simp] theorem ackHandshake_params (l : Half) : (ackHandshake l s).params = s.params := rfl
@[simp] theorem ackHandshake_running (l : Half) : (ackHandshake l s).running = s.running := rfl
@[simp] theorem ackHandshake_writeOnly (l : Half) : (ackHandshake l s).writeOnly = s.writeOnly := rfl
@[simp] theorem ackHandshake_pendingShiftCount (l : Half) : (ackHandshake l s).pendingShiftCount = s.pendingShiftCount := rfl
@[simp] theorem ackHandshake_ring (l : Half) : (ackHandshake l s).ring = s.ring := rfl
@[simp] theorem ackHandshake_rdCursor (l : Half) : (ackHandshake l s).rdCursor = s.rdCursor := rfl
@[simp] theorem ackHandshake_pending (l : Half) : (ackHandshake l s).pending = s.pending := rfl
@[simp] theorem ackHandshake_tickFlag (l : Half) : (ackHandshake l s).tickFlag = s.tickFlag := rfl
@[simp] theorem ackHandshake_setupPending (l : Half) : (ackHandshake l s).setupPending = s.setupPending := rfl
@[simp] theorem ackHandshake_setupDesc (l : Half) : (ackHandshake l s).setupDesc = s.setupDesc := rfl
@[simp] theorem ackHandshake_curConfig (l : Half) : (ackHandshake l s).curConfig = s.curConfig := rfl
@[simp] theorem ackHandshake_curAlt (l : Half) : (ackHandshake l s).curAlt = s.curAlt := rfl
@[simp] theorem ackHandshake_speedMode (l : Half) : (ackHandshake l s).speedMode = s.speedMode := rfl
@[simp] theorem ackHandshake_jtagMaster (l : Half) : (ackHandshake l s).jtagMaster = s.jtagMaster := rfl
@[simp] theorem ackHandshake_syncMode (l : Half) : (ackHandshake l s).syncMode = s.syncMode := rfl
@[simp] theorem ackHandshake_configBlock (l : Half) : (ackHandshake l s).configBlock = s.configBlock := rfl
@[simp] theorem ackHandshake_desc (l : Half) : (ackHandshake l s).desc = s.desc := rfl
@[simp] theorem ackHandshake_pc (l : Half) : (ackHandshake l s).pc = s.pc := rfl
@[simp] theorem ackHandshake_outChunk (l : Half) : (ackHandshake l s).outChunk = s.outChunk := rfl
@[simp] theorem ackHandshake_outQueue (l : Half) : (ackHandshake l s).outQueue = s.outQueue := rfl
@[simp] theorem ackHandshake_inBusy (l : Half) : (ackHandshake l s).inBusy = s.inBusy := rfl
@[simp] theorem ackHandshake_inPkt (l : Half) : (ackHandshake l s).inPkt = s.inPkt := rfl
@[simp] theorem ackHandshake_ep0 (l : Half) : (ackHandshake l s).ep0 = .empty := rfl
@[simp] theorem ackHandshake_epStall (l : Half) : (ackHandshake l s).epStall = s.epStall := rfl
@[simp] theorem ackHandshake_epToggle (l : Half) : (ackHandshake l s).epToggle = s.epToggle := rfl
@[simp] theorem ackHandshake_trace (l : Half) : (ackHandshake l s).trace = s.trace ++ [.ackHandshake] := rfl
@[simp] theorem ackHandshake_hostIn (l : Half) : (ackHandshake l s).hostIn = s.hostIn := rfl
@[simp] theorem ackHandshake_hostCtl (l : Half) : (ackHandshake l s).hostCtl = s.hostCtl ++ [controlResult s.ep0 l] := rfl
@[simp] theorem ackHandshake_phase (l : Half) : (ackHandshake l s).phase = s.phase := rfl
@[simp] theorem ackHandshake_turns (l : Half) : (ackHandshake l s).turns = s.turns := rfl
@[simp] theorem ackHandshake_lineIn (l : Half) : (ackHandshake l s).lineIn = s.lineIn := rfl
@[simp] theorem ackHandshake_draws (l : Half) : (ackHandshake l s).draws = s.draws := rfl
@[simp] theorem ackHandshake_renums (l : Half) : (ackHandshake l s).renums = s.renums := rfl

@[simp] theorem epStallSet_params (a : Byte) (b : Bool) : (epStallSet a b s).params = s.params := rfl
@[simp] theorem epStallSet_running (a : Byte) (b : Bool) : (epStallSet a b s).running = s.running := rfl
@[simp] theorem epStallSet_writeOnly (a : Byte) (b : Bool) : (epStallSet a b s).writeOnly = s.writeOnly := rfl
@[simp] theorem epStallSet_pendingShiftCount (a : Byte) (b : Bool) : (epStallSet a b s).pendingShiftCount = s.pendingShiftCount := rfl
@[simp] theorem epStallSet_ring (a : Byte) (b : Bool) : (epStallSet a b s).ring = s.ring := rfl
@[simp] theorem epStallSet_rdCursor (a : Byte) (b : Bool) : (epStallSet a b s).rdCursor = s.rdCursor := rfl
@[simp] theorem epStallSet_pending (a : Byte) (b : Bool) : (epStallSet a b s).pending = s.pending := rfl
@[simp] theorem epStallSet_tickFlag (a : Byte) (b : Bool) : (epStallSet a b s).tickFlag = s.tickFlag := rfl
@[simp] theorem epStallSet_setupPending (a : Byte) (b : Bool) : (epStallSet a b s).setupPending = s.setupPending := rfl
@[simp] theorem epStallSet_setupDesc (a : Byte) (b : Bool) : (epStallSet a b s).setupDesc = s.setupDesc := rfl
@[simp] theorem epStallSet_curConfig (a : Byte) (b : Bool) : (epStallSet a b s).curConfig = s.curConfig := rfl
@[simp] theorem epStallSet_curAlt (a : Byte) (b : Bool) : (epStallSet a b s).curAlt = s.curAlt := rfl
@[simp] theorem epStallSet_speedMode (a : Byte) (b : Bool) : (epStallSet a b s).speedMode = s.speedMode := rfl
@[simp] theorem epStallSet_jtagMaster (a : Byte) (b : Bool) : (epStallSet a b s).jtagMaster = s.jtagMaster := rfl
@[simp] theorem epStallSet_syncMode (a : Byte) (b : Bool) : (epStallSet a b s).syncMode = s.syncMode := rfl
@[simp] theorem epStallSet_configBlock (a : Byte) (b : Bool) : (epStallSet a b s).configBlock = s.configBlock := rfl
@[simp] theorem epStallSet_desc (a : Byte) (b : Bool) : (epStallSet a b s).desc = s.desc := rfl
@[simp] theorem epStallSet_pc (a : Byte) (b : Bool) : (epStallSet a b s).pc = s.pc := rfl
@[simp] theorem epStallSet_outChunk (a : Byte) (b : Bool) : (epStallSet a b s).outChunk = s.outChunk := rfl
@[simp] theorem epStallSet_outQueue (a : Byte) (b : Bool) : (epStallSet a b s).outQueue = s.outQueue := rfl
@[simp] theorem epStallSet_inBusy (a : Byte) (b : Bool) : (epStallSet a b s).inBusy = s.inBusy := rfl
@[simp] theorem epStallSet_inPkt (a : Byte) (b : Bool) : (epStallSet a b s).inPkt = s.inPkt := rfl
@[simp] theorem epStallSet_ep0 (a : Byte) (b : Bool) : (epStallSet a b s).ep0 = s.ep0 := rfl
@[simp] theorem epStallSet_epStall (a : Byte) (b : Bool) : (epStallSet a b s).epStall = sparseSet s.epStall a.toNat b := rfl
@[simp] theorem epStallSet_epToggle (a : Byte) (b : Bool) : (epStallSet a b s).epToggle = s.epToggle := rfl
@[simp] theorem epStallSet_trace (a : Byte) (b : Bool) : (epStallSet a b s).trace = s.trace ++ [.epStallSet a b] := rfl
@[simp] theorem epStallSet_hostIn (a : Byte) (b : Bool) : (epStallSet a b s).hostIn = s.hostIn := rfl
@[simp] theorem epStallSet_hostCtl (a : Byte) (b : Bool) : (epStallSet a b s).hostCtl = s.hostCtl := rfl
@[simp] theorem epStallSet_phase (a : Byte) (b : Bool) : (epStallSet a b s).phase = s.phase := rfl
@[simp] theorem epStallSet_turns (a : Byte) (b : Bool) : (epStallSet a b s).turns = s.turns := rfl
@[simp] theorem epStallSet_lineIn (a : Byte) (b : Bool) : (epStallSet a b s).lineIn = s.lineIn := rfl
@[simp] theorem epStallSet_draws (a : Byte) (b : Bool) : (epStallSet a b s).draws = s.draws := rfl
@[simp] theorem epStallSet_renums (a : Byte) (b : Bool) : (epStallSet a b s).renums = s.renums := rfl

@[simp] theorem epToggleReset_params (a : Byte) : (epToggleReset a s).params = s.params := rfl
@[simp] theorem epToggleReset_running (a : Byte) : (epToggleReset a s).running = s.running := rfl
@[simp] theorem epToggleReset_writeOnly (a : Byte) : (epToggleReset a s).writeOnly = s.writeOnly := rfl
@[simp] theorem epToggleReset_pendingShiftCount (a : Byte) : (epToggleReset a s).pendingShiftCount = s.pendingShiftCount := rfl
@[simp] theorem epToggleReset_ring (a : Byte) : (epToggleReset a s).ring = s.ring := rfl
@[simp] theorem epToggleReset_rdCursor (a : Byte) : (epToggleReset a s).rdCursor = s.rdCursor := rfl
@[simp] theorem epToggleReset_pending (a : Byte) : (epToggleReset a s).pending = s.pending := rfl
@[simp] theorem epToggleReset_tickFlag (a : Byte) : (epToggleReset a s).tickFlag = s.tickFlag := rfl
@[simp] theorem epToggleReset_setupPending (a : Byte) : (epToggleReset a s).setupPending = s.setupPending := rfl
@[simp] theorem epToggleReset_setupDesc (a : Byte) : (epToggleReset a s).setupDesc = s.setupDesc := rfl
@[simp] theorem epToggleReset_curConfig (a : Byte) : (epToggleReset a s).curConfig = s.curConfig := rfl
@[simp] theorem epToggleReset_curAlt (a : Byte) : (epToggleReset a s).curAlt = s.curAlt := rfl
@[simp] theorem epToggleReset_speedMode (a : Byte) : (epToggleReset a s).speedMode = s.speedMode := rfl
@[simp] theorem epToggleReset_jtagMaster (a : Byte) : (epToggleReset a s).jtagMaster = s.jtagMaster := rfl
@[simp] theorem epToggleReset_syncMode (a : Byte) : (epToggleReset a s).syncMode = s.syncMode := rfl
@[simp] theorem epToggleReset_configBlock (a : Byte) : (epToggleReset a s).configBlock = s.configBlock := rfl
@[simp] theorem epToggleReset_desc (a : Byte) : (epToggleReset a s).desc = s.desc := rfl
@[simp] theorem epToggleReset_pc (a : Byte) : (epToggleReset a s).pc = s.pc := rfl
@[simp] theorem epToggleReset_outChunk (a : Byte) : (epToggleReset a s).outChunk = s.outChunk := rfl
@[simp] theorem epToggleReset_outQueue (a : Byte) : (epToggleReset a s).outQueue = s.outQueue := rfl
@[simp] theorem epToggleReset_inBusy (a : Byte) : (epToggleReset a s).inBusy = s.inBusy := rfl
@[simp] theorem epToggleReset_inPkt (a : Byte) : (epToggleReset a s).inPkt = s.inPkt := rfl
@[simp] theorem epToggleReset_ep0 (a : Byte) : (epToggleReset a s).ep0 = s.ep0 := rfl
@[simp] theorem epToggleReset_epStall (a : Byte) : (epToggleReset a s).epStall = s.epStall := rfl
@[simp] theorem epToggleReset_epToggle (a : Byte) : (epToggleReset a s).epToggle = sparseSet s.epToggle a.toNat .data0 := rfl
@[simp] theorem epToggleReset_trace (a : Byte) : (epToggleReset a s).trace = s.trace ++ [.epToggleReset a] := rfl
@[simp] theorem epToggleReset_hostIn (a : Byte) : (epToggleReset a s).hostIn = s.hostIn := rfl
@[simp] theorem epToggleReset_hostCtl (a : Byte) : (epToggleReset a s).hostCtl = s.hostCtl := rfl
@[simp] theorem epToggleReset_phase (a : Byte) : (epToggleReset a s).phase = s.phase := rfl
@[simp] theorem epToggleReset_turns (a : Byte) : (epToggleReset a s).turns = s.turns := rfl
@[simp] theorem epToggleReset_lineIn (a : Byte) : (epToggleReset a s).lineIn = s.lineIn := rfl
@[simp] theorem epToggleReset_draws (a : Byte) : (epToggleReset a s).draws = s.draws := rfl
@[simp] theorem epToggleReset_renums (a : Byte) : (epToggleReset a s).renums = s.renums := rfl

@[simp] theorem inSubmit_params (packet : List Byte) : (inSubmit packet s).params = s.params := rfl
@[simp] theorem inSubmit_running (packet : List Byte) : (inSubmit packet s).running = s.running := rfl
@[simp] theorem inSubmit_writeOnly (packet : List Byte) : (inSubmit packet s).writeOnly = s.writeOnly := rfl
@[simp] theorem inSubmit_pendingShiftCount (packet : List Byte) : (inSubmit packet s).pendingShiftCount = s.pendingShiftCount := rfl
@[simp] theorem inSubmit_ring (packet : List Byte) : (inSubmit packet s).ring = s.ring := rfl
@[simp] theorem inSubmit_rdCursor (packet : List Byte) : (inSubmit packet s).rdCursor = s.rdCursor := rfl
@[simp] theorem inSubmit_pending (packet : List Byte) : (inSubmit packet s).pending = s.pending := rfl
@[simp] theorem inSubmit_tickFlag (packet : List Byte) : (inSubmit packet s).tickFlag = s.tickFlag := rfl
@[simp] theorem inSubmit_setupPending (packet : List Byte) : (inSubmit packet s).setupPending = s.setupPending := rfl
@[simp] theorem inSubmit_setupDesc (packet : List Byte) : (inSubmit packet s).setupDesc = s.setupDesc := rfl
@[simp] theorem inSubmit_curConfig (packet : List Byte) : (inSubmit packet s).curConfig = s.curConfig := rfl
@[simp] theorem inSubmit_curAlt (packet : List Byte) : (inSubmit packet s).curAlt = s.curAlt := rfl
@[simp] theorem inSubmit_speedMode (packet : List Byte) : (inSubmit packet s).speedMode = s.speedMode := rfl
@[simp] theorem inSubmit_jtagMaster (packet : List Byte) : (inSubmit packet s).jtagMaster = s.jtagMaster := rfl
@[simp] theorem inSubmit_syncMode (packet : List Byte) : (inSubmit packet s).syncMode = s.syncMode := rfl
@[simp] theorem inSubmit_configBlock (packet : List Byte) : (inSubmit packet s).configBlock = s.configBlock := rfl
@[simp] theorem inSubmit_desc (packet : List Byte) : (inSubmit packet s).desc = s.desc := rfl
@[simp] theorem inSubmit_pc (packet : List Byte) : (inSubmit packet s).pc = s.pc := rfl
@[simp] theorem inSubmit_outChunk (packet : List Byte) : (inSubmit packet s).outChunk = s.outChunk := rfl
@[simp] theorem inSubmit_outQueue (packet : List Byte) : (inSubmit packet s).outQueue = s.outQueue := rfl
@[simp] theorem inSubmit_inBusy (packet : List Byte) : (inSubmit packet s).inBusy = true := rfl
@[simp] theorem inSubmit_inPkt (packet : List Byte) : (inSubmit packet s).inPkt = some packet := rfl
@[simp] theorem inSubmit_ep0 (packet : List Byte) : (inSubmit packet s).ep0 = s.ep0 := rfl
@[simp] theorem inSubmit_epStall (packet : List Byte) : (inSubmit packet s).epStall = s.epStall := rfl
@[simp] theorem inSubmit_epToggle (packet : List Byte) : (inSubmit packet s).epToggle = s.epToggle := rfl
@[simp] theorem inSubmit_trace (packet : List Byte) : (inSubmit packet s).trace = s.trace ++ [.inSubmit packet] := rfl
@[simp] theorem inSubmit_hostIn (packet : List Byte) : (inSubmit packet s).hostIn = s.hostIn := rfl
@[simp] theorem inSubmit_hostCtl (packet : List Byte) : (inSubmit packet s).hostCtl = s.hostCtl := rfl
@[simp] theorem inSubmit_phase (packet : List Byte) : (inSubmit packet s).phase = s.phase := rfl
@[simp] theorem inSubmit_turns (packet : List Byte) : (inSubmit packet s).turns = s.turns := rfl
@[simp] theorem inSubmit_lineIn (packet : List Byte) : (inSubmit packet s).lineIn = s.lineIn := rfl
@[simp] theorem inSubmit_draws (packet : List Byte) : (inSubmit packet s).draws = s.draws := rfl
@[simp] theorem inSubmit_renums (packet : List Byte) : (inSubmit packet s).renums = s.renums := rfl

@[simp] theorem ringTake_params (n : Nat) : (ringTake n s).params = s.params := rfl
@[simp] theorem ringTake_running (n : Nat) : (ringTake n s).running = s.running := rfl
@[simp] theorem ringTake_writeOnly (n : Nat) : (ringTake n s).writeOnly = s.writeOnly := rfl
@[simp] theorem ringTake_pendingShiftCount (n : Nat) : (ringTake n s).pendingShiftCount = s.pendingShiftCount := rfl
@[simp] theorem ringTake_ring (n : Nat) : (ringTake n s).ring = s.ring := rfl
@[simp] theorem ringTake_rdCursor (n : Nat) : (ringTake n s).rdCursor = s.rdCursor + BitVec.ofNat 8 n := rfl
@[simp] theorem ringTake_pending (n : Nat) : (ringTake n s).pending = s.pending - n := rfl
@[simp] theorem ringTake_tickFlag (n : Nat) : (ringTake n s).tickFlag = s.tickFlag := rfl
@[simp] theorem ringTake_setupPending (n : Nat) : (ringTake n s).setupPending = s.setupPending := rfl
@[simp] theorem ringTake_setupDesc (n : Nat) : (ringTake n s).setupDesc = s.setupDesc := rfl
@[simp] theorem ringTake_curConfig (n : Nat) : (ringTake n s).curConfig = s.curConfig := rfl
@[simp] theorem ringTake_curAlt (n : Nat) : (ringTake n s).curAlt = s.curAlt := rfl
@[simp] theorem ringTake_speedMode (n : Nat) : (ringTake n s).speedMode = s.speedMode := rfl
@[simp] theorem ringTake_jtagMaster (n : Nat) : (ringTake n s).jtagMaster = s.jtagMaster := rfl
@[simp] theorem ringTake_syncMode (n : Nat) : (ringTake n s).syncMode = s.syncMode := rfl
@[simp] theorem ringTake_configBlock (n : Nat) : (ringTake n s).configBlock = s.configBlock := rfl
@[simp] theorem ringTake_desc (n : Nat) : (ringTake n s).desc = s.desc := rfl
@[simp] theorem ringTake_pc (n : Nat) : (ringTake n s).pc = s.pc := rfl
@[simp] theorem ringTake_outChunk (n : Nat) : (ringTake n s).outChunk = s.outChunk := rfl
@[simp] theorem ringTake_outQueue (n : Nat) : (ringTake n s).outQueue = s.outQueue := rfl
@[simp] theorem ringTake_inBusy (n : Nat) : (ringTake n s).inBusy = s.inBusy := rfl
@[simp] theorem ringTake_inPkt (n : Nat) : (ringTake n s).inPkt = s.inPkt := rfl
@[simp] theorem ringTake_ep0 (n : Nat) : (ringTake n s).ep0 = s.ep0 := rfl
@[simp] theorem ringTake_epStall (n : Nat) : (ringTake n s).epStall = s.epStall := rfl
@[simp] theorem ringTake_epToggle (n : Nat) : (ringTake n s).epToggle = s.epToggle := rfl
@[simp] theorem ringTake_trace (n : Nat) : (ringTake n s).trace = s.trace := rfl
@[simp] theorem ringTake_hostIn (n : Nat) : (ringTake n s).hostIn = s.hostIn := rfl
@[simp] theorem ringTake_hostCtl (n : Nat) : (ringTake n s).hostCtl = s.hostCtl := rfl
@[simp] theorem ringTake_phase (n : Nat) : (ringTake n s).phase = s.phase := rfl
@[simp] theorem ringTake_turns (n : Nat) : (ringTake n s).turns = s.turns := rfl
@[simp] theorem ringTake_lineIn (n : Nat) : (ringTake n s).lineIn = s.lineIn := rfl
@[simp] theorem ringTake_draws (n : Nat) : (ringTake n s).draws = s.draws := rfl
@[simp] theorem ringTake_renums (n : Nat) : (ringTake n s).renums = s.renums := rfl

@[simp] theorem armTick_params : (armTick s).params = s.params := rfl
@[simp] theorem armTick_running : (armTick s).running = s.running := rfl
@[simp] theorem armTick_writeOnly : (armTick s).writeOnly = s.writeOnly := rfl
@[simp] theorem armTick_pendingShiftCount : (armTick s).pendingShiftCount = s.pendingShiftCount := rfl
@[simp] theorem armTick_ring : (armTick s).ring = s.ring := rfl
@[simp] theorem armTick_rdCursor : (armTick s).rdCursor = s.rdCursor := rfl
@[simp] theorem armTick_pending : (armTick s).pending = s.pending := rfl
@[simp] theorem armTick_tickFlag : (armTick s).tickFlag = (s.tickFlag || s.params.armSetsTick) := rfl
@[simp] theorem armTick_setupPending : (armTick s).setupPending = s.setupPending := rfl
@[simp] theorem armTick_setupDesc : (armTick s).setupDesc = s.setupDesc := rfl
@[simp] theorem armTick_curConfig : (armTick s).curConfig = s.curConfig := rfl
@[simp] theorem armTick_curAlt : (armTick s).curAlt = s.curAlt := rfl
@[simp] theorem armTick_speedMode : (armTick s).speedMode = s.speedMode := rfl
@[simp] theorem armTick_jtagMaster : (armTick s).jtagMaster = s.jtagMaster := rfl
@[simp] theorem armTick_syncMode : (armTick s).syncMode = s.syncMode := rfl
@[simp] theorem armTick_configBlock : (armTick s).configBlock = s.configBlock := rfl
@[simp] theorem armTick_desc : (armTick s).desc = s.desc := rfl
@[simp] theorem armTick_pc : (armTick s).pc = s.pc := rfl
@[simp] theorem armTick_outChunk : (armTick s).outChunk = s.outChunk := rfl
@[simp] theorem armTick_outQueue : (armTick s).outQueue = s.outQueue := rfl
@[simp] theorem armTick_inBusy : (armTick s).inBusy = s.inBusy := rfl
@[simp] theorem armTick_inPkt : (armTick s).inPkt = s.inPkt := rfl
@[simp] theorem armTick_ep0 : (armTick s).ep0 = s.ep0 := rfl
@[simp] theorem armTick_epStall : (armTick s).epStall = s.epStall := rfl
@[simp] theorem armTick_epToggle : (armTick s).epToggle = s.epToggle := rfl
@[simp] theorem armTick_trace : (armTick s).trace = s.trace := rfl
@[simp] theorem armTick_hostIn : (armTick s).hostIn = s.hostIn := rfl
@[simp] theorem armTick_hostCtl : (armTick s).hostCtl = s.hostCtl := rfl
@[simp] theorem armTick_phase : (armTick s).phase = s.phase := rfl
@[simp] theorem armTick_turns : (armTick s).turns = s.turns := rfl
@[simp] theorem armTick_lineIn : (armTick s).lineIn = s.lineIn := rfl
@[simp] theorem armTick_draws : (armTick s).draws = s.draws := rfl
@[simp] theorem armTick_renums : (armTick s).renums = s.renums := rfl

@[simp] theorem recordReadBit_params (r : Bool) : (recordReadBit r s).params = s.params := rfl
@[simp] theorem recordReadBit_running (r : Bool) : (recordReadBit r s).running = s.running := rfl
@[simp] theorem recordReadBit_writeOnly (r : Bool) : (recordReadBit r s).writeOnly = !r := rfl
@[simp] theorem recordReadBit_pendingShiftCount (r : Bool) : (recordReadBit r s).pendingShiftCount = s.pendingShiftCount := rfl
@[simp] theorem recordReadBit_ring (r : Bool) : (recordReadBit r s).ring = s.ring := rfl
@[simp] theorem recordReadBit_rdCursor (r : Bool) : (recordReadBit r s).rdCursor = s.rdCursor := rfl
@[simp] theorem recordReadBit_pending (r : Bool) : (recordReadBit r s).pending = s.pending := rfl
@[simp] theorem recordReadBit_tickFlag (r : Bool) : (recordReadBit r s).tickFlag = s.tickFlag := rfl
@[simp] theorem recordReadBit_setupPending (r : Bool) : (recordReadBit r s).setupPending = s.setupPending := rfl
@[simp] theorem recordReadBit_setupDesc (r : Bool) : (recordReadBit r s).setupDesc = s.setupDesc := rfl
@[simp] theorem recordReadBit_curConfig (r : Bool) : (recordReadBit r s).curConfig = s.curConfig := rfl
@[simp] theorem recordReadBit_curAlt (r : Bool) : (recordReadBit r s).curAlt = s.curAlt := rfl
@[simp] theorem recordReadBit_speedMode (r : Bool) : (recordReadBit r s).speedMode = s.speedMode := rfl
@[simp] theorem recordReadBit_jtagMaster (r : Bool) : (recordReadBit r s).jtagMaster = s.jtagMaster := rfl
@[simp] theorem recordReadBit_syncMode (r : Bool) : (recordReadBit r s).syncMode = s.syncMode := rfl
@[simp] theorem recordReadBit_configBlock (r : Bool) : (recordReadBit r s).configBlock = s.configBlock := rfl
@[simp] theorem recordReadBit_desc (r : Bool) : (recordReadBit r s).desc = s.desc := rfl
@[simp] theorem recordReadBit_pc (r : Bool) : (recordReadBit r s).pc = s.pc := rfl
@[simp] theorem recordReadBit_outChunk (r : Bool) : (recordReadBit r s).outChunk = s.outChunk := rfl
@[simp] theorem recordReadBit_outQueue (r : Bool) : (recordReadBit r s).outQueue = s.outQueue := rfl
@[simp] theorem recordReadBit_inBusy (r : Bool) : (recordReadBit r s).inBusy = s.inBusy := rfl
@[simp] theorem recordReadBit_inPkt (r : Bool) : (recordReadBit r s).inPkt = s.inPkt := rfl
@[simp] theorem recordReadBit_ep0 (r : Bool) : (recordReadBit r s).ep0 = s.ep0 := rfl
@[simp] theorem recordReadBit_epStall (r : Bool) : (recordReadBit r s).epStall = s.epStall := rfl
@[simp] theorem recordReadBit_epToggle (r : Bool) : (recordReadBit r s).epToggle = s.epToggle := rfl
@[simp] theorem recordReadBit_trace (r : Bool) : (recordReadBit r s).trace = s.trace := rfl
@[simp] theorem recordReadBit_hostIn (r : Bool) : (recordReadBit r s).hostIn = s.hostIn := rfl
@[simp] theorem recordReadBit_hostCtl (r : Bool) : (recordReadBit r s).hostCtl = s.hostCtl := rfl
@[simp] theorem recordReadBit_phase (r : Bool) : (recordReadBit r s).phase = s.phase := rfl
@[simp] theorem recordReadBit_turns (r : Bool) : (recordReadBit r s).turns = s.turns := rfl
@[simp] theorem recordReadBit_lineIn (r : Bool) : (recordReadBit r s).lineIn = s.lineIn := rfl
@[simp] theorem recordReadBit_draws (r : Bool) : (recordReadBit r s).draws = s.draws := rfl
@[simp] theorem recordReadBit_renums (r : Bool) : (recordReadBit r s).renums = s.renums := rfl

@[simp] theorem countDown_params : (countDown s).params = s.params := rfl
@[simp] theorem countDown_running : (countDown s).running = s.running := rfl
@[simp] theorem countDown_writeOnly : (countDown s).writeOnly = s.writeOnly := rfl
@[simp] theorem countDown_pendingShiftCount : (countDown s).pendingShiftCount = s.pendingShiftCount - 1 := rfl
@[simp] theorem countDown_ring : (countDown s).ring = s.ring := rfl
@[simp] theorem countDown_rdCursor : (countDown s).rdCursor = s.rdCursor := rfl
@[simp] theorem countDown_pending : (countDown s).pending = s.pending := rfl
@[simp] theorem countDown_tickFlag : (countDown s).tickFlag = s.tickFlag := rfl
@[simp] theorem countDown_setupPending : (countDown s).setupPending = s.setupPending := rfl
@[simp] theorem countDown_setupDesc : (countDown s).setupDesc = s.setupDesc := rfl
@[simp] theorem countDown_curConfig : (countDown s).curConfig = s.curConfig := rfl
@[simp] theorem countDown_curAlt : (countDown s).curAlt = s.curAlt := rfl
@[simp] theorem countDown_speedMode : (countDown s).speedMode = s.speedMode := rfl
@[simp] theorem countDown_jtagMaster : (countDown s).jtagMaster = s.jtagMaster := rfl
@[simp] theorem countDown_syncMode : (countDown s).syncMode = s.syncMode := rfl
@[simp] theorem countDown_configBlock : (countDown s).configBlock = s.configBlock := rfl
@[simp] theorem countDown_desc : (countDown s).desc = s.desc := rfl
@[simp] theorem countDown_pc : (countDown s).pc = s.pc := rfl
@[simp] theorem countDown_outChunk : (countDown s).outChunk = s.outChunk := rfl
@[simp] theorem countDown_outQueue : (countDown s).outQueue = s.outQueue := rfl
@[simp] theorem countDown_inBusy : (countDown s).inBusy = s.inBusy := rfl
@[simp] theorem countDown_inPkt : (countDown s).inPkt = s.inPkt := rfl
@[simp] theorem countDown_ep0 : (countDown s).ep0 = s.ep0 := rfl
@[simp] theorem countDown_epStall : (countDown s).epStall = s.epStall := rfl
@[simp] theorem countDown_epToggle : (countDown s).epToggle = s.epToggle := rfl
@[simp] theorem countDown_trace : (countDown s).trace = s.trace := rfl
@[simp] theorem countDown_hostIn : (countDown s).hostIn = s.hostIn := rfl
@[simp] theorem countDown_hostCtl : (countDown s).hostCtl = s.hostCtl := rfl
@[simp] theorem countDown_phase : (countDown s).phase = s.phase := rfl
@[simp] theorem countDown_turns : (countDown s).turns = s.turns := rfl
@[simp] theorem countDown_lineIn : (countDown s).lineIn = s.lineIn := rfl
@[simp] theorem countDown_draws : (countDown s).draws = s.draws := rfl
@[simp] theorem countDown_renums : (countDown s).renums = s.renums := rfl

@[simp] theorem lineSetLines_params (v : Six) : (lineSetLines v s).params = s.params := rfl
@[simp] theorem lineSetLines_running (v : Six) : (lineSetLines v s).running = s.running := rfl
@[simp] theorem lineSetLines_writeOnly (v : Six) : (lineSetLines v s).writeOnly = s.writeOnly := rfl
@[simp] theorem lineSetLines_pendingShiftCount (v : Six) : (lineSetLines v s).pendingShiftCount = s.pendingShiftCount := rfl
@[simp] theorem lineSetLines_ring (v : Six) : (lineSetLines v s).ring = s.ring := rfl
@[simp] theorem lineSetLines_rdCursor (v : Six) : (lineSetLines v s).rdCursor = s.rdCursor := rfl
@[simp] theorem lineSetLines_pending (v : Six) : (lineSetLines v s).pending = s.pending := rfl
@[simp] theorem lineSetLines_tickFlag (v : Six) : (lineSetLines v s).tickFlag = s.tickFlag := rfl
@[simp] theorem lineSetLines_setupPending (v : Six) : (lineSetLines v s).setupPending = s.setupPending := rfl
@[simp] theorem lineSetLines_setupDesc (v : Six) : (lineSetLines v s).setupDesc = s.setupDesc := rfl
@[simp] theorem lineSetLines_curConfig (v : Six) : (lineSetLines v s).curConfig = s.curConfig := rfl
@[simp] theorem lineSetLines_curAlt (v : Six) : (lineSetLines v s).curAlt = s.curAlt := rfl
@[simp] theorem lineSetLines_speedMode (v : Six) : (lineSetLines v s).speedMode = s.speedMode := rfl
@[simp] theorem lineSetLines_jtagMaster (v : Six) : (lineSetLines v s).jtagMaster = s.jtagMaster := rfl
@[simp] theorem lineSetLines_syncMode (v : Six) : (lineSetLines v s).syncMode = s.syncMode := rfl
@[simp] theorem lineSetLines_configBlock (v : Six) : (lineSetLines v s).configBlock = s.configBlock := rfl
@[simp] theorem lineSetLines_desc (v : Six) : (lineSetLines v s).desc = s.desc := rfl
@[simp] theorem lineSetLines_pc (v : Six) : (lineSetLines v s).pc = s.pc := rfl
@[simp] theorem lineSetLines_outChunk (v : Six) : (lineSetLines v s).outChunk = s.outChunk := rfl
@[simp] theorem lineSetLines_outQueue (v : Six) : (lineSetLines v s).outQueue = s.outQueue := rfl
@[simp] theorem lineSetLines_inBusy (v : Six) : (lineSetLines v s).inBusy = s.inBusy := rfl
@[simp] theorem lineSetLines_inPkt (v : Six) : (lineSetLines v s).inPkt = s.inPkt := rfl
@[simp] theorem lineSetLines_ep0 (v : Six) : (lineSetLines v s).ep0 = s.ep0 := rfl
@[simp] theorem lineSetLines_epStall (v : Six) : (lineSetLines v s).epStall = s.epStall := rfl
@[simp] theorem lineSetLines_epToggle (v : Six) : (lineSetLines v s).epToggle = s.epToggle := rfl
@[simp] theorem lineSetLines_trace (v : Six) : (lineSetLines v s).trace = s.trace ++ [.setLines v] := rfl
@[simp] theorem lineSetLines_hostIn (v : Six) : (lineSetLines v s).hostIn = s.hostIn := rfl
@[simp] theorem lineSetLines_hostCtl (v : Six) : (lineSetLines v s).hostCtl = s.hostCtl := rfl
@[simp] theorem lineSetLines_phase (v : Six) : (lineSetLines v s).phase = s.phase := rfl
@[simp] theorem lineSetLines_turns (v : Six) : (lineSetLines v s).turns = s.turns := rfl
@[simp] theorem lineSetLines_lineIn (v : Six) : (lineSetLines v s).lineIn = s.lineIn := rfl
@[simp] theorem lineSetLines_draws (v : Six) : (lineSetLines v s).draws = s.draws := rfl
@[simp] theorem lineSetLines_renums (v : Six) : (lineSetLines v s).renums = s.renums := rfl

@[simp] theorem lineShiftOut_params (b : Bool) : (lineShiftOut b s).params = s.params := rfl
@[simp] theorem lineShiftOut_running (b : Bool) : (lineShiftOut b s).running = s.running := rfl
@[simp] theorem lineShiftOut_writeOnly (b : Bool) : (lineShiftOut b s).writeOnly = s.writeOnly := rfl
@[simp] theorem lineShiftOut_pendingShiftCount (b : Bool) : (lineShiftOut b s).pendingShiftCount = s.pendingShiftCount := rfl
@[simp] theorem lineShiftOut_ring (b : Bool) : (lineShiftOut b s).ring = s.ring := rfl
@[simp] theorem lineShiftOut_rdCursor (b : Bool) : (lineShiftOut b s).rdCursor = s.rdCursor := rfl
@[simp] theorem lineShiftOut_pending (b : Bool) : (lineShiftOut b s).pending = s.pending := rfl
@[simp] theorem lineShiftOut_tickFlag (b : Bool) : (lineShiftOut b s).tickFlag = s.tickFlag := rfl
@[simp] theorem lineShiftOut_setupPending (b : Bool) : (lineShiftOut b s).setupPending = s.setupPending := rfl
@[simp] theorem lineShiftOut_setupDesc (b : Bool) : (lineShiftOut b s).setupDesc = s.setupDesc := rfl
@[simp] theorem lineShiftOut_curConfig (b : Bool) : (lineShiftOut b s).curConfig = s.curConfig := rfl
@[simp] theorem lineShiftOut_curAlt (b : Bool) : (lineShiftOut b s).curAlt = s.curAlt := rfl
@[simp] theorem lineShiftOut_speedMode (b : Bool) : (lineShiftOut b s).speedMode = s.speedMode := rfl
@[simp] theorem lineShiftOut_jtagMaster (b : Bool) : (lineShiftOut b s).jtagMaster = s.jtagMaster := rfl
@[simp] theorem lineShiftOut_syncMode (b : Bool) : (lineShiftOut b s).syncMode = s.syncMode := rfl
@[simp] theorem lineShiftOut_configBlock (b : Bool) : (lineShiftOut b s).configBlock = s.configBlock := rfl
@[simp] theorem lineShiftOut_desc (b : Bool) : (lineShiftOut b s).desc = s.desc := rfl
@[simp] theorem lineShiftOut_pc (b : Bool) : (lineShiftOut b s).pc = s.pc := rfl
@[simp] theorem lineShiftOut_outChunk (b : Bool) : (lineShiftOut b s).outChunk = s.outChunk := rfl
@[simp] theorem lineShiftOut_outQueue (b : Bool) : (lineShiftOut b s).outQueue = s.outQueue := rfl
@[simp] theorem lineShiftOut_inBusy (b : Bool) : (lineShiftOut b s).inBusy = s.inBusy := rfl
@[simp] theorem lineShiftOut_inPkt (b : Bool) : (lineShiftOut b s).inPkt = s.inPkt := rfl
@[simp] theorem lineShiftOut_ep0 (b : Bool) : (lineShiftOut b s).ep0 = s.ep0 := rfl
@[simp] theorem lineShiftOut_epStall (b : Bool) : (lineShiftOut b s).epStall = s.epStall := rfl
@[simp] theorem lineShiftOut_epToggle (b : Bool) : (lineShiftOut b s).epToggle = s.epToggle := rfl
@[simp] theorem lineShiftOut_trace (b : Bool) : (lineShiftOut b s).trace = s.trace ++ [.shiftOut b] := rfl
@[simp] theorem lineShiftOut_hostIn (b : Bool) : (lineShiftOut b s).hostIn = s.hostIn := rfl
@[simp] theorem lineShiftOut_hostCtl (b : Bool) : (lineShiftOut b s).hostCtl = s.hostCtl := rfl
@[simp] theorem lineShiftOut_phase (b : Bool) : (lineShiftOut b s).phase = s.phase := rfl
@[simp] theorem lineShiftOut_turns (b : Bool) : (lineShiftOut b s).turns = s.turns := rfl
@[simp] theorem lineShiftOut_lineIn (b : Bool) : (lineShiftOut b s).lineIn = s.lineIn := rfl
@[simp] theorem lineShiftOut_draws (b : Bool) : (lineShiftOut b s).draws = s.draws := rfl
@[simp] theorem lineShiftOut_renums (b : Bool) : (lineShiftOut b s).renums = s.renums := rfl

@[simp] theorem renumerate_params : (renumerate s).params = s.params := rfl
@[simp] theorem renumerate_running : (renumerate s).running = s.running := rfl
@[simp] theorem renumerate_writeOnly : (renumerate s).writeOnly = s.writeOnly := rfl
@[simp] theorem renumerate_pendingShiftCount : (renumerate s).pendingShiftCount = s.pendingShiftCount := rfl
@[simp] theorem renumerate_ring : (renumerate s).ring = s.ring := rfl
@[simp] theorem renumerate_rdCursor : (renumerate s).rdCursor = s.rdCursor := rfl
@[simp] theorem renumerate_pending : (renumerate s).pending = s.pending := rfl
@[simp] theorem renumerate_tickFlag : (renumerate s).tickFlag = s.tickFlag := rfl
@[simp] theorem renumerate_setupPending : (renumerate s).setupPending = s.setupPending := rfl
@[simp] theorem renumerate_setupDesc : (renumerate s).setupDesc = s.setupDesc := rfl
@[simp] theorem renumerate_curConfig : (renumerate s).curConfig = s.curConfig := rfl
@[simp] theorem renumerate_curAlt : (renumerate s).curAlt = s.curAlt := rfl
@[simp] theorem renumerate_speedMode : (renumerate s).speedMode = s.speedMode := rfl
@[simp] theorem renumerate_jtagMaster : (renumerate s).jtagMaster = s.jtagMaster := rfl
@[simp] theorem renumerate_syncMode : (renumerate s).syncMode = s.syncMode := rfl
@[simp] theorem renumerate_configBlock : (renumerate s).configBlock = s.configBlock := rfl
@[simp] theorem renumerate_desc : (renumerate s).desc = s.desc := rfl
@[simp] theorem renumerate_pc : (renumerate s).pc = s.pc := rfl
@[simp] theorem renumerate_outChunk : (renumerate s).outChunk = s.outChunk := rfl
@[simp] theorem renumerate_outQueue : (renumerate s).outQueue = (Config.renumQueue s.renums).map (fun chunk => chunk.take s.params.maxChunk) := rfl
@[simp] theorem renumerate_inBusy : (renumerate s).inBusy = Config.renumInBusy s.renums := rfl
@[simp] theorem renumerate_inPkt : (renumerate s).inPkt = (Config.renumPayload s.renums).map packetOf := rfl
@[simp] theorem renumerate_ep0 : (renumerate s).ep0 = s.ep0 := rfl
@[simp] theorem renumerate_epStall : (renumerate s).epStall = [] := rfl
@[simp] theorem renumerate_epToggle : (renumerate s).epToggle = [] := rfl
@[simp] theorem renumerate_trace : (renumerate s).trace = s.trace ++ [.renumerate] := rfl
@[simp] theorem renumerate_hostIn : (renumerate s).hostIn = s.hostIn := rfl
@[simp] theorem renumerate_hostCtl : (renumerate s).hostCtl = s.hostCtl := rfl
@[simp] theorem renumerate_phase : (renumerate s).phase = s.phase := rfl
@[simp] theorem renumerate_turns : (renumerate s).turns = s.turns := rfl
@[simp] theorem renumerate_lineIn : (renumerate s).lineIn = s.lineIn := rfl
@[simp] theorem renumerate_draws : (renumerate s).draws = s.draws := rfl
@[simp] theorem renumerate_renums : (renumerate s).renums = s.renums + 1 := rfl

/-! The queries: the answer, and the state with the call made. -/

@[simp] theorem cfgReadByte_fst (o : Nat) : (cfgReadByte o s).1 = cfgByteAt s.configBlock o := rfl
@[simp] theorem cfgReadByte_snd (o : Nat) :
    (cfgReadByte o s).2 = call (.byteAt o (cfgByteAt s.configBlock o).toOption) s := rfl
@[simp] theorem outCount_fst : (outCount s).1 = s.outQueue.head?.map List.length := rfl
@[simp] theorem outCount_snd : (outCount s).2 = call (.outCount (s.outQueue.head?.map List.length)) s := rfl
@[simp] theorem inBusyGet_fst : (inBusyGet s).1 = s.inBusy := rfl
@[simp] theorem inBusyGet_snd : (inBusyGet s).2 = call (.inBusy s.inBusy) s := rfl
@[simp] theorem epStallGet_fst (a : Byte) : (epStallGet a s).1 = epStalled a s := rfl
@[simp] theorem epStallGet_snd (a : Byte) : (epStallGet a s).2 = call (.epStallGet a (epStalled a s)) s := rfl

/-- Taking the oldest chunk (R48). -/
theorem outTake_cons {s : State} {chunk : List Byte} {queue : List (List Byte)} (h : s.outQueue = chunk :: queue) :
    outTake s = call (.outTake chunk) { s with outQueue := queue, outChunk := chunk, pc := 0 } := by
  simp [outTake, h]

end Sys2Proof.Machine
end

