-- ==== Sys2Proof/Laws/Memory.lean ====
section
/-! SUPPORT. The laws of sparse tables and memory: a read after a write, every other place left alone, and the canonical
form kept by every memory operation. -/

namespace Sys2Proof.Machine

variable {α : Type}

theorem sparseGet_sparseSet_same (table : List (Nat × α)) (a : Nat) (v : α) :
    sparseGet (sparseSet table a v) a = some v := by
  induction table with
  | nil => simp [sparseSet, sparseGet]
  | cons e rest ih =>
    obtain ⟨k, w⟩ := e
    simp only [sparseSet]
    split
    · simp [sparseGet]
    · split <;> simp_all [sparseGet]

theorem sparseGet_sparseSet_other (table : List (Nat × α)) {a b : Nat} (v : α) (h : b ≠ a) :
    sparseGet (sparseSet table a v) b = sparseGet table b := by
  induction table with
  | nil => simp [sparseSet, sparseGet, Ne.symm h]
  | cons e rest ih =>
    obtain ⟨k, w⟩ := e
    simp only [sparseSet]
    split
    · simp [sparseGet, Ne.symm h]
    · split <;> simp_all [sparseGet, Ne.symm h]

theorem mem_sparseSet {table : List (Nat × α)} {a : Nat} {v : α} {e : Nat × α} (h : e ∈ sparseSet table a v) :
    e = (a, v) ∨ e ∈ table := by
  induction table with
  | nil => simpa [sparseSet] using h
  | cons x rest ih =>
    obtain ⟨k, w⟩ := x
    simp only [sparseSet] at h
    split at h
    · simpa using h
    · split at h
      · simp only [List.mem_cons] at h ⊢
        tauto
      · simp only [List.mem_cons] at h ⊢
        tauto

theorem sparseRising_sparseSet {table : List (Nat × α)} (a : Nat) (v : α) (h : sparseRising table = true) :
    sparseRising (sparseSet table a v) = true := by
  induction table with
  | nil => simp [sparseSet, sparseRising]
  | cons x rest ih =>
    obtain ⟨k, w⟩ := x
    simp only [sparseRising, Bool.and_eq_true, List.all_eq_true, decide_eq_true_eq] at h
    simp only [sparseSet]
    split
    · rename_i hlt
      simp only [sparseRising, Bool.and_eq_true, List.all_eq_true, decide_eq_true_eq, List.mem_cons]
      exact ⟨fun e he => he.elim (by rintro rfl; exact hlt) (fun m => lt_trans hlt (h.1 e m)), h.1, h.2⟩
    · split
      · rename_i hk
        subst hk
        simpa only [sparseRising, Bool.and_eq_true, List.all_eq_true, decide_eq_true_eq] using h
      · simp only [sparseRising, Bool.and_eq_true, List.all_eq_true, decide_eq_true_eq]
        refine ⟨fun e he => ?_, ih h.2⟩
        rcases mem_sparseSet he with rfl | m
        · simp only; omega
        · exact h.1 e m

theorem Memory.read_write_same (m : Memory) (a : Nat) (v : Byte) : (m.write a v).read a = some v :=
  sparseGet_sparseSet_same m a v

theorem Memory.read_write_other (m : Memory) {a b : Nat} (v : Byte) (h : b ≠ a) :
    (m.write a v).read b = m.read b :=
  sparseGet_sparseSet_other m v h

/-- Every write to an address of the space keeps the canonical form. -/
theorem Memory.wf_write {m : Memory} (h : m.wf = true) {a : Nat} (ha : a < Config.cap) (v : Byte) :
    (m.write a v).wf = true := by
  simp only [Memory.wf, Bool.and_eq_true, List.all_eq_true, decide_eq_true_eq] at h ⊢
  refine ⟨sparseRising_sparseSet a v h.1, fun e he => ?_⟩
  rcases mem_sparseSet he with rfl | hm
  · exact ha
  · exact h.2 e hm

theorem Memory.wf_reset : State.reset.ring.wf = true := rfl

theorem wrPos_lt (s : State) : wrPos s < Config.cap := Nat.mod_lt _ (by decide)

/-- What an append can do: on a ring with room it writes the byte at `WrPos` and counts it; else it faults (R223, R224). -/
theorem ringAppend_eq_next {v : Byte} {s t : State} (h : ringAppend v s = .next t) :
    s.pending < Config.cap ∧ t = { s with ring := s.ring.write (wrPos s) v, pending := s.pending + 1 } := by
  simp only [ringAppend] at h
  split at h
  · exact ⟨‹_›, by simpa using h.symm⟩
  · cases h

theorem ringAppend_of_lt {v : Byte} {s : State} (h : s.pending < Config.cap) :
    ringAppend v s = .next { s with ring := s.ring.write (wrPos s) v, pending := s.pending + 1 } := by
  simp [ringAppend, h]

theorem ringAppend_full {v : Byte} {s : State} (h : ¬ s.pending < Config.cap) :
    ringAppend v s = .fault .ringOverflow := by
  simp [ringAppend, h]

/-- An append is a next state or the fault of a full ring, never a refusal. -/
theorem ringAppend_not_refused {v : Byte} {s : State} {r : Refusal} : ringAppend v s ≠ .refused r := by
  simp only [ringAppend]
  split <;> simp

end Sys2Proof.Machine
end

