-- ==== Sys2Proof/Laws/Line.lean ====
section
/-! SUPPORT. What the line operations do: the answers drawn, the calls made, and that nothing else changes. -/

namespace Sys2Proof.Machine

/-- `n` answers of the line driver, in order: the scripted ones first, then free values (R44, R46). -/
def lineAnswers : Nat → State → List Bool
  | 0, _ => []
  | n + 1, s => (lineAnswer s).1 :: lineAnswers n (lineAnswer s).2

/-- What drawing an answer changes: only the script and the counter of free answers. -/
theorem lineAnswer_snd (s : State) :
    (lineAnswer s).2 = { s with lineIn := (lineAnswer s).2.lineIn, draws := (lineAnswer s).2.draws } := by
  unfold lineAnswer
  split <;> rfl

theorem lineAnswer_scripted {s : State} {a : Bool} {rest : List Bool} (h : s.lineIn = a :: rest) :
    lineAnswer s = (a, { s with lineIn := rest }) := by
  simp [lineAnswer, h]

theorem lineAnswer_free {s : State} (h : s.lineIn = []) :
    lineAnswer s = (Config.lineSample s.draws, { s with draws := s.draws + 1 }) := by
  simp [lineAnswer, h]

/-- Shifting out makes one call per bit, in order, and changes nothing else (R45, R206). -/
theorem shiftOutBits_eq (d : Byte) (ks : List Nat) (s : State) :
    shiftOutBits d ks s = { s with trace := s.trace ++ ks.map (fun k => Call.shiftOut (d.getLsbD k)) } := by
  induction ks generalizing s with
  | nil => simp [shiftOutBits]
  | cons k rest ih => simp [shiftOutBits, ih, lineShiftOut, call]

/-- Shifting in and out changes only the trace, the script of answers and the counter of free answers; the trace gains one
call per bit, each with the answer it drew (R46, R205). -/
theorem shiftInOutBits_spec (d : Byte) (ks : List Nat) (r : Byte) (s : State) :
    ∃ answers : List Bool, ∃ lineIn : List Bool, ∃ draws : Nat,
      answers.length = ks.length ∧
      (shiftInOutBits d ks r s).1 = (ks.zip answers).foldl (fun b e => putBit b e.1 e.2) r ∧
      (shiftInOutBits d ks r s).2 =
        { s with trace := s.trace ++ List.zipWith (fun k a => Call.shiftInOut (d.getLsbD k) a) ks answers,
                 lineIn := lineIn, draws := draws } := by
  induction ks generalizing r s with
  | nil => exact ⟨[], s.lineIn, s.draws, rfl, rfl, by simp [shiftInOutBits]⟩
  | cons k rest ih =>
    obtain ⟨as, li, dr, hl, hr, hs⟩ := ih (putBit r k (lineShiftInOut (d.getLsbD k) s).1)
      (lineShiftInOut (d.getLsbD k) s).2
    refine ⟨(lineShiftInOut (d.getLsbD k) s).1 :: as, li, dr, by simp [hl], ?_, ?_⟩
    · simp [shiftInOutBits, hr]
    · simp only [shiftInOutBits, hs]
      simp only [lineShiftInOut, call]
      rw [lineAnswer_snd s]
      simp

/-- With enough scripted answers, shifting in and out draws exactly those (R205). -/
theorem shiftInOutBits_scripted (d : Byte) (ks : List Nat) (r : Byte) (s : State) (answers rest : List Bool)
    (hl : answers.length = ks.length) (hs : s.lineIn = answers ++ rest) :
    shiftInOutBits d ks r s =
      ((ks.zip answers).foldl (fun b e => putBit b e.1 e.2) r,
       { s with trace := s.trace ++ List.zipWith (fun k a => Call.shiftInOut (d.getLsbD k) a) ks answers,
                lineIn := rest }) := by
  induction ks generalizing r s answers with
  | nil =>
    obtain rfl : answers = [] := List.length_eq_zero_iff.mp hl
    cases s
    simp_all [shiftInOutBits]
  | cons k ks ih =>
    obtain ⟨a, as, rfl⟩ := List.exists_cons_of_length_eq_add_one hl
    have hl' : as.length = ks.length := by simpa using hl
    simp only [shiftInOutBits, lineShiftInOut, call, lineAnswer_scripted (by simpa using hs : s.lineIn = a :: (as ++ rest))]
    rw [ih _ _ as hl' rfl]
    simp

end Sys2Proof.Machine
end

