-- ==== Sys2Proof/Laws/Ring.lean ====
section
/-! SUPPORT. The ring as a queue: what appending some bytes does to its contents, its addresses and its canonical form,
and what taking bytes does. -/

namespace Sys2Proof.Machine

/-- The state after some bytes were appended to a ring with room for them (R223). -/
def pushed : List Byte → State → State
  | [], s => s
  | v :: vs, s => pushed vs { s with ring := s.ring.write (wrPos s) v, pending := s.pending + 1 }

/-- Appending changes only the ring and its count. -/
theorem pushed_eq (vs : List Byte) (s : State) :
    pushed vs s = { s with ring := (pushed vs s).ring, pending := s.pending + vs.length } := by
  induction vs generalizing s with
  | nil => simp [pushed]
  | cons v vs ih =>
    rw [pushed, ih]
    simp only [List.length_cons, Nat.add_assoc, Nat.add_comm 1]

@[simp] theorem pushed_pending (vs : List Byte) (s : State) : (pushed vs s).pending = s.pending + vs.length := by
  rw [pushed_eq]

@[simp] theorem pushed_rdCursor (vs : List Byte) (s : State) : (pushed vs s).rdCursor = s.rdCursor := by
  rw [pushed_eq]

theorem pushed_append (vs ws : List Byte) (s : State) : pushed (vs ++ ws) s = pushed ws (pushed vs s) := by
  induction vs generalizing s with
  | nil => rfl
  | cons v vs ih => simp [pushed, ih]

/-- What appending does to the ring depends only on the ring, its cursor and its count. -/
theorem pushed_ring_congr (vs : List Byte) {s t : State} (hr : t.ring = s.ring) (hc : t.rdCursor = s.rdCursor)
    (hp : t.pending = s.pending) : (pushed vs t).ring = (pushed vs s).ring := by
  induction vs generalizing s t with
  | nil => exact hr
  | cons v vs ih => exact ih (by simp [wrPos, hr, hc, hp]) hc (by simp [hp])

theorem ringRead_congr {s t : State} (h : t.ring = s.ring) (a : Nat) : ringRead t a = ringRead s a := by
  simp [ringRead, h]

/-- A byte read where it was just appended. -/
theorem ringRead_append_same (s : State) (v : Byte) {a : Nat} (h : a % Config.cap = wrPos s) :
    ringRead { s with ring := s.ring.write (wrPos s) v, pending := s.pending + 1 } a = v := by
  simp [ringRead, h, Memory.read_write_same]

/-- An append leaves every other byte of the ring alone. -/
theorem ringRead_append_other (s : State) (v : Byte) {a : Nat} (h : a % Config.cap ≠ wrPos s) :
    ringRead { s with ring := s.ring.write (wrPos s) v, pending := s.pending + 1 } a = ringRead s a := by
  simp [ringRead, Memory.read_write_other _ _ h]

/-- Appending leaves every byte outside the appended run alone. -/
theorem ringRead_pushed (vs : List Byte) (s : State) {a : Nat}
    (h : ∀ j, j < vs.length → a % 256 ≠ (s.rdCursor.toNat + s.pending + j) % 256) :
    ringRead (pushed vs s) a = ringRead s a := by
  induction vs generalizing s with
  | nil => rfl
  | cons v vs ih =>
    rw [pushed, ih]
    · exact ringRead_append_other s v (by simpa [wrPos, Config.cap] using h 0 (by simp))
    · intro j hj
      have := h (j + 1) (by simpa using hj)
      simpa [Nat.add_assoc, Nat.add_comm, Nat.add_left_comm] using this

/-- An append puts its byte behind the pending ones. -/
theorem ringContents_append {s : State} (v : Byte) (h : s.pending < Config.cap) :
    ringContents { s with ring := s.ring.write (wrPos s) v, pending := s.pending + 1 } = ringContents s ++ [v] := by
  simp only [ringContents, ringRun, List.range_succ, List.map_append, List.map_cons, List.map_nil]
  congr 1
  · refine List.map_congr_left fun k hk => ringRead_append_other s v ?_
    have : k < s.pending := List.mem_range.mp hk
    simp only [wrPos, Config.cap] at *
    omega
  · simpa using ringRead_append_same s v rfl

/-- Appending a run of bytes puts them behind the pending ones, in order (R229). -/
theorem ringContents_pushed (vs : List Byte) (s : State) (h : s.pending + vs.length ≤ Config.cap) :
    ringContents (pushed vs s) = ringContents s ++ vs := by
  induction vs generalizing s with
  | nil => simp [pushed]
  | cons v vs ih =>
    simp only [List.length_cons] at h
    rw [pushed, ih _ (by simp only; omega), ringContents_append v (by omega)]
    simp

/-- What the ring holds depends only on its bytes, its cursor and its count. -/
theorem ringContents_congr {s t : State} (hr : t.ring = s.ring) (hc : t.rdCursor = s.rdCursor)
    (hp : t.pending = s.pending) : ringContents t = ringContents s := by
  simp [ringContents, ringRun, ringRead, hr, hc, hp]

/-- Taking `n` bytes leaves the others, in order (R226). -/
theorem ringContents_take (s : State) (n : Nat) :
    ringContents (ringTake n s) = (ringContents s).drop n := by
  apply List.ext_getElem
  · simp [ringContents, ringRun]
  · intro k h1 h2
    simp [ringContents, ringRun, ringRead, Config.cap, BitVec.toNat_add]
    rw [Nat.add_assoc]

/-- The bytes a packet takes are the oldest ones. -/
theorem ringRun_eq_take {s : State} {n : Nat} (h : n ≤ s.pending) : ringRun s n = (ringContents s).take n := by
  simp [ringContents, ringRun, ← List.map_take, List.take_range, h]

theorem ringContents_length (s : State) : (ringContents s).length = s.pending := by simp [ringContents, ringRun]

/-- Appending keeps the canonical form of the ring's memory. -/
theorem ring_wf_pushed (vs : List Byte) {s : State} (h : s.ring.wf = true) : (pushed vs s).ring.wf = true := by
  induction vs generalizing s with
  | nil => exact h
  | cons v vs ih => exact ih (Memory.wf_write h (wrPos_lt s) v)

end Sys2Proof.Machine
end

