-- ==== Sys2Proof/Laws/Interpret.lean ====
section
/-! SUPPORT. What interpreting can do, said once: one byte of the stream, then a run of bytes. -/

namespace Sys2Proof.Machine

/-- The eight events: instructions without a bit pattern (R112). -/
def isEvent : Instr → Bool
  | .setupStep => true
  | .ingest => true
  | .dataPacket => true
  | .keepalivePacket => true
  | .tick => true
  | .setupArrives _ => true
  | .chunkArrives _ => true
  | .hostTakesIn => true
  | _ => false

/-- A command runs inside a stream or a setup phase exactly as exec runs it. -/
theorem runCommand_eq_exec {i : Instr} (s : State) (h : isEvent i = false) : runCommand i s = exec i s := by
  cases i <;> first | rfl | cases h

/-- The decoder of a byte yields no event. -/
theorem isEvent_decodeByte (c : Six) (w : Bool) (b : Byte) : isEvent (decodeByte c w b) = false := by
  unfold decodeByte decodeBitBang decodeShift
  split_ifs <;> rfl

/-- Neither does the decoder of a descriptor. -/
theorem isEvent_decodeSetup (p : Params) (d : SetupDesc) : isEvent (decodeSetup p d) = false := by
  have vendor : isEvent (decodeVendor p d) = false := by unfold decodeVendor; split_ifs <;> rfl
  have descriptor : isEvent (decodeGetDescriptor d) = false := by unfold decodeGetDescriptor; split_ifs <;> rfl
  have status : isEvent (decodeGetStatus d) = false := by unfold decodeGetStatus; split_ifs <;> rfl
  have clear : isEvent (decodeClearFeature d) = false := by unfold decodeClearFeature; split_ifs <;> rfl
  have set : isEvent (decodeSetFeature d) = false := by unfold decodeSetFeature; split_ifs <;> rfl
  have standardIn : isEvent (decodeStandardIn d) = false := by
    unfold decodeStandardIn; split_ifs <;> first | assumption | rfl
  have standardOut : isEvent (decodeStandardOut d) = false := by
    unfold decodeStandardOut; split_ifs <;> first | assumption | rfl
  unfold decodeSetup
  split_ifs <;> first | assumption | rfl

theorem interpretByte_eq (b : Byte) (s : State) :
    interpretByte b s = andThen (exec (decodeByte s.pendingShiftCount s.writeOnly b) s)
      (fun t => .next { t with pc := t.pc + 1 }) := by
  rw [interpretByte, runCommand_eq_exec s (isEvent_decodeByte _ _ _)]

/-- Calls whose sampled bytes are `vs`, whatever calls follow; no packet is among them. -/
structure Samples (p : Params) (new : List Call) (vs : List Byte) : Prop where
  results_eq : ∀ rest, results p (new ++ rest) = vs ++ results p rest
  line_only : ∀ c ∈ new, match c with
    | .setLines _ => True | .getState _ => True | .shiftOut _ => True | .shiftInOut _ _ => True | _ => False

theorem Samples.nil (p : Params) : Samples p [] [] := ⟨fun _ => rfl, by simp⟩

theorem Samples.append {p : Params} {n m : List Call} {vs ws : List Byte} (h : Samples p n vs) (k : Samples p m ws) :
    Samples p (n ++ m) (vs ++ ws) where
  results_eq rest := by rw [List.append_assoc, h.results_eq, k.results_eq, List.append_assoc]
  line_only c hc := by
    rcases List.mem_append.mp hc with hc | hc
    · exact h.line_only c hc
    · exact k.line_only c hc

theorem Samples.payloads_eq {p : Params} {new : List Call} {vs : List Byte} (h : Samples p new vs) :
    payloads new = [] := by
  have := h.line_only
  clear h
  induction new with
  | nil => rfl
  | cons c rest ih =>
    have hc := this c (by simp)
    have := ih (fun d hd => this d (by simp [hd]))
    cases c <;> simp_all [payloads]

theorem Samples.no_submit {p : Params} {new : List Call} {vs : List Byte} (h : Samples p new vs) (packet : List Byte) :
    .inSubmit packet ∉ new := fun hm => h.line_only _ hm

/-- What interpreting changes: some calls are made, the sampled bytes `vs` are appended in order, and of the registers
only the mode state changes (R211, R212). -/
structure Interprets (s t : State) (new : List Call) (vs : List Byte) : Prop where
  samples : Samples s.params new vs
  fits : vs ≠ [] → s.pending + vs.length ≤ Config.cap
  state_eq : t = { pushed vs s with
    writeOnly := t.writeOnly, pendingShiftCount := t.pendingShiftCount, pc := t.pc, trace := s.trace ++ new,
    lineIn := t.lineIn, draws := t.draws }

theorem shiftOrder_eq (p : Params) :
    shiftOrder p = [0, 1, 2, 3, 4, 5, 6, 7] ∨ shiftOrder p = [7, 6, 5, 4, 3, 2, 1, 0] := by
  unfold shiftOrder
  split <;> simp

/-- Eight shift-out calls sample nothing. -/
theorem samples_shiftOut (p : Params) (d : Byte) :
    Samples p ((shiftOrder p).map (fun k => Call.shiftOut (d.getLsbD k))) [] := by
  rcases shiftOrder_eq p with h | h <;> rw [h] <;>
    exact ⟨fun rest => by simp [results], by simp⟩

/-- Eight shift-in-out calls sample the one byte that their answers make up. -/
theorem samples_shiftInOut (p : Params) (d : Byte) (answers : List Bool) (h : answers.length = 8) :
    Samples p (List.zipWith (fun k a => Call.shiftInOut (d.getLsbD k) a) (shiftOrder p) answers)
      [assembled p answers] := by
  obtain ⟨a0, a1, a2, a3, a4, a5, a6, a7, rfl⟩ : ∃ a0 a1 a2 a3 a4 a5 a6 a7, answers = [a0, a1, a2, a3, a4, a5, a6, a7] := by
    match answers, h with
    | [a0, a1, a2, a3, a4, a5, a6, a7], _ => exact ⟨a0, a1, a2, a3, a4, a5, a6, a7, rfl⟩
  rcases shiftOrder_eq p with h | h <;> rw [h] <;>
    exact ⟨fun rest => by simp [results], by simp⟩

/-- Making some calls that sample nothing interprets nothing into the ring. -/
theorem Interprets.of_calls {s t : State} {new : List Call} (h : Samples s.params new [])
    (ht : t = { s with writeOnly := t.writeOnly, pendingShiftCount := t.pendingShiftCount, pc := t.pc,
                       trace := s.trace ++ new }) : Interprets s t new [] where
  samples := h
  fits h := absurd rfl h
  state_eq := by
    rw [ht]
    rfl

/-- What one byte of the stream can do (R201 to R208): it makes its calls and appends at most one byte, or, only when it
appends to a full ring, it is the fault of R224. -/
theorem exec_byte (b : Byte) (s : State) :
    (∃ t new vs, exec (decodeByte s.pendingShiftCount s.writeOnly b) s = .next t ∧ t.pc = s.pc ∧ vs.length ≤ 1
      ∧ Interprets s t new vs)
    ∨ (Config.cap ≤ s.pending ∧ exec (decodeByte s.pendingShiftCount s.writeOnly b) s = .fault .ringOverflow) := by
  by_cases hc : s.pendingShiftCount = 0
  · have hb : bitBangMode s = true := by simp [bitBangMode, hc]
    simp only [decodeByte, hc, if_true, decodeBitBang]
    split_ifs
    · refine .inl ⟨lineSetLines (b.extractLsb' 0 6) (recordReadBit false s), [.setLines (b.extractLsb' 0 6)], [], ?_, rfl, by simp, ?_⟩
      · simp only [exec, execBbw, inBitBang, hb, if_true]
      · exact .of_calls ⟨fun _ => rfl, by simp⟩ rfl
    · simp only [exec, execBbr, inBitBang, hb, if_true]
      generalize hs : lineSetLines _ (recordReadBit true s) = u
      have hu : (lineAnswer u).2.pending = s.pending := by rw [lineAnswer_snd]; subst hs; rfl
      by_cases hp : s.pending < Config.cap
      · refine .inl ⟨_, [.setLines (b.extractLsb' 0 6), .getState (lineAnswer u).1], [readByte (lineAnswer u).1],
          ringAppend_of_lt (by simpa [lineGetState, call, hu] using hp), ?_, by simp, ?_⟩
        · simp only [lineGetState, call]; rw [lineAnswer_snd]; subst hs; rfl
        · refine ⟨⟨fun _ => by simp [results], by simp⟩, fun _ => by simpa using hp, ?_⟩
          simp only [lineGetState, call, pushed]
          rw [lineAnswer_snd]
          subst hs
          simp [lineSetLines, call, recordReadBit, wrPos]
      · refine .inr ⟨Nat.le_of_not_lt hp, ringAppend_full ?_⟩
        simpa [lineGetState, call, hu] using hp
    · exact .inl ⟨{ recordReadBit false s with pendingShiftCount := b.extractLsb' 0 6 }, [], [],
        by simp only [exec, execShw, inBitBang, hb, if_true], rfl, by simp, .of_calls (.nil _) (by simp [recordReadBit])⟩
    · exact .inl ⟨{ recordReadBit true s with pendingShiftCount := b.extractLsb' 0 6 }, [], [],
        by simp only [exec, execShr, inBitBang, hb, if_true], rfl, by simp, .of_calls (.nil _) (by simp [recordReadBit])⟩
  · have hb : bitBangMode s = false := by simpa [bitBangMode] using hc
    simp only [decodeByte, hc, if_false, decodeShift]
    cases hw : s.writeOnly
    · simp only [exec, execDatr, inShift, hb, hw, Bool.false_eq_true, if_false, Bool.not_false, beq_self_eq_true,
        Bool.and_self, if_true]
      obtain ⟨answers, li, dr, hl, hr, hs⟩ := shiftInOutBits_spec b (shiftOrder s.params) 0 s
      have hl : answers.length = 8 := by rcases shiftOrder_eq s.params with h | h <;> simpa [h] using hl
      rw [hr, hs]
      by_cases hp : s.pending < Config.cap
      · rw [ringAppend_of_lt (by simpa using hp)]
        exact .inl ⟨_, _, [assembled s.params answers], rfl, rfl, by simp, samples_shiftInOut s.params b answers hl,
          fun _ => by simpa using hp, by simp [countDown, pushed, wrPos, assembled]⟩
      · rw [ringAppend_full (by simpa using hp)]
        exact .inr ⟨Nat.le_of_not_lt hp, rfl⟩
    · simp only [exec, execDatw, inShift, hb, hw, if_true, Bool.not_false, beq_self_eq_true, Bool.and_self]
      exact .inl ⟨_, _, [], rfl, by simp [countDown, shiftOutBits_eq], by simp,
        .of_calls (samples_shiftOut s.params b) (by simp [countDown, shiftOutBits_eq])⟩

/-- Interpreting one part of a stream, then the next (R200). -/
theorem Interprets.trans {s t u : State} {n m : List Call} {vs ws : List Byte} (h : Interprets s t n vs)
    (k : Interprets t u m ws) : Interprets s u (n ++ m) (vs ++ ws) := by
  have hs := h.state_eq
  have hk := k.state_eq
  have hp : t.params = s.params := by rw [hs, pushed_eq]
  have hr : t.ring = (pushed vs s).ring := by rw [hs]
  have hc : t.rdCursor = (pushed vs s).rdCursor := by rw [hs]
  have hn : t.pending = (pushed vs s).pending := by rw [hs]
  refine ⟨h.samples.append (hp ▸ k.samples), fun hne => ?_, ?_⟩
  · have h1 := h.fits
    have h2 := k.fits
    rw [hn, pushed_pending] at h2
    rw [List.length_append]
    rcases ws with _ | ⟨w, ws⟩
    · simpa using h1 (by simpa using hne)
    · have := h2 (by simp)
      omega
  · have hring : (pushed ws t).ring = (pushed ws (pushed vs s)).ring := pushed_ring_congr ws hr hc hn
    rw [hk, pushed_eq ws t, hring, pushed_append, pushed_eq ws (pushed vs s), pushed_eq vs s, hs, pushed_eq vs s]
    simp [Nat.add_assoc]

/-- The cursor's advance is no part of what interpreting does to the other registers. -/
theorem Interprets.with_pc {s t : State} {new : List Call} {vs : List Byte} (h : Interprets s t new vs) (n : Nat) :
    Interprets s { t with pc := n } new vs where
  samples := h.samples
  fits := h.fits
  state_eq := by
    have := h.state_eq
    rw [this]

theorem Interprets.refl (s : State) : Interprets s s [] [] := .of_calls (.nil _) (by simp)

/-- What a run of bytes of the stream can do (R200, R210): it interprets at most `k` bytes from the cursor on, appends at
most one result for each, and leaves the cursor behind the last; or it appended more than the ring has room for. -/
theorem interpretBytes_spec (k : Nat) (s : State) :
    (∃ t new vs, interpretBytes k s = .next t ∧ t.pc = s.pc + min k (s.outChunk.length - s.pc)
      ∧ vs.length ≤ min k (s.outChunk.length - s.pc) ∧ Interprets s t new vs)
    ∨ (Config.cap < s.pending + min k (s.outChunk.length - s.pc) ∧ interpretBytes k s = .fault .ringOverflow) := by
  induction k generalizing s with
  | zero => exact .inl ⟨s, [], [], rfl, by simp, by simp, .refl s⟩
  | succ k ih =>
    rw [interpretBytes]
    cases hb : fetchByte s with
    | none =>
      have hle : s.outChunk.length ≤ s.pc := by simpa [fetchByte] using hb
      exact .inl ⟨s, [], [], rfl, by omega, by simp, .refl s⟩
    | some b =>
      have hlt : s.pc < s.outChunk.length := (List.getElem?_eq_some_iff.mp hb).1
      simp only [interpretByte_eq]
      rcases exec_byte b s with ⟨t, n, vs, he, hpc, hl, hi⟩ | ⟨hfull, he⟩
      · have hchunk : t.outChunk = s.outChunk := by rw [hi.state_eq, pushed_eq]
        have hpend : t.pending = s.pending + vs.length := by rw [hi.state_eq, pushed_eq]
        rw [he]
        simp only [andThen_next]
        rcases ih { t with pc := t.pc + 1 } with ⟨u, m, ws, hu, hupc, hul, hui⟩ | ⟨hfull, hu⟩
        · refine .inl ⟨u, n ++ m, vs ++ ws, hu, ?_, ?_, (hi.with_pc _).trans hui⟩
          · simp only [hchunk, hpc] at hupc
            omega
          · simp only [hchunk, hpc] at hul
            rw [List.length_append]
            omega
        · refine .inr ⟨?_, hu⟩
          simp only [hchunk, hpc, hpend] at hfull
          omega
      · exact .inr ⟨by omega, by rw [he]; rfl⟩

end Sys2Proof.Machine
end

