-- ==== Sys2Proof/Laws/Control.lean ====
section
/-! SUPPORT. What a control request can do, said once: it answers a next state, makes only calls of the control plane, and
writes only the registers named here (41_control_dispatch.md, 42_vendor_commands.md). -/

namespace Sys2Proof.Machine

/-- The calls of the control plane but the handshake (R51 to R56). -/
def isControlCall : Call → Bool
  | .byteAt _ _ => true
  | .descriptor _ _ _ => true
  | .epStallGet _ _ => true
  | .stageReply _ => true
  | .stall => true
  | .epStallSet _ _ => true
  | .epToggleReset _ => true
  | .renumerate => true
  | _ => false

/-- The outcome of a request (R51): at most one of a stall and a staged reply, with the data phase to match; only a
renumeration leaves open whether the reply arrives (log 21). -/
inductive HasOutcome (s t : State) (new : List Call) : Prop where
  | neither (calls : new.filter isOutcome = []) (ep0 : t.ep0 = s.ep0)
  | stall (calls : new.filter isOutcome = [.stall]) (ep0 : t.ep0 = .stalled)
  | reply (bytes : List Byte) (arrives : Bool) (calls : new.filter isOutcome = [.stageReply bytes])
      (ep0 : t.ep0 = .staged bytes arrives) (open_only : arrives = false → .renumerate ∈ new)

/-- What a request can change. The packet of the transport is the one it was, or one with the form of R97; the waiting
chunks are those they were, or no longer than `MAX_CHUNK` (R55, log 11). -/
structure Handles (i : Instr) (s t : State) (new : List Call) : Prop where
  calls : ∀ c ∈ new, isControlCall c = true
  running : t.running = s.running ∨ i = .start ∧ t.running = true
  inPkt : t.inPkt = s.inPkt ∨ ∀ packet ∈ t.inPkt, framed packet = true
  outQueue : t.outQueue = s.outQueue ∨ ∀ chunk ∈ t.outQueue, chunk.length ≤ s.params.maxChunk
  epStall : sparseRising s.epStall = true → sparseRising t.epStall = true
  epToggle : sparseRising s.epToggle = true → sparseRising t.epToggle = true
  /-- A stall, and nothing else, ends a request that found no reply staged as stalled (R167). -/
  stalled : t.ep0 = .stalled → s.ep0 = .stalled ∨ t = protocolStall s
  no_stall : .stall ∈ new → t = protocolStall s
  outcome : HasOutcome s t new
  state_eq : t = { s with
    running := t.running, curConfig := t.curConfig, curAlt := t.curAlt, speedMode := t.speedMode
    jtagMaster := t.jtagMaster, syncMode := t.syncMode, outQueue := t.outQueue, inBusy := t.inBusy, inPkt := t.inPkt
    ep0 := t.ep0, epStall := t.epStall, epToggle := t.epToggle, renums := t.renums, trace := s.trace ++ new }

theorem Handles.stall (i : Instr) (s : State) : Handles i s (protocolStall s) [.stall] := by
  refine ⟨?_, ?_, ?_, ?_, ?_, ?_, ?_, ?_, .stall rfl rfl, ?_⟩ <;> simp [isControlCall, protocolStall, call]

theorem Handles.reply (i : Instr) (s : State) (bytes : List Byte) :
    Handles i s (stageReply bytes s) [.stageReply bytes] := by
  refine ⟨?_, ?_, ?_, ?_, ?_, ?_, ?_, ?_, .reply bytes true rfl rfl (by simp), ?_⟩ <;>
    simp [isControlCall, stageReply, call]

/-- A query of the control plane: a call that gives the request no outcome. -/
def isControlQuery (c : Call) : Bool := isControlCall c && !isOutcome c

/-- A reply staged after some queries. -/
theorem Handles.replyAfter (i : Instr) (s : State) (queries : List Call) (bytes : List Byte)
    (h : ∀ c ∈ queries, isControlQuery c = true) :
    Handles i s (stageReply bytes { s with trace := s.trace ++ queries }) (queries ++ [.stageReply bytes]) := by
  have hq : ∀ c ∈ queries, isControlCall c = true ∧ isOutcome c = false := fun c hc => by
    simpa [isControlQuery] using h c hc
  refine ⟨?_, .inl rfl, .inl rfl, .inl rfl, id, id, fun he => Ep0.noConfusion he, fun hm => ?_,
    .reply bytes true ?_ rfl (by simp), by simp [stageReply, call]⟩
  · intro c hc
    rcases List.mem_append.mp hc with hc | hc
    · exact (hq c hc).1
    · obtain rfl : c = .stageReply bytes := by simpa using hc
      rfl
  · rcases List.mem_append.mp hm with hm | hm
    · exact absurd (hq _ hm).2 (by simp [isOutcome])
    · simp at hm
  · rw [List.filter_append, List.filter_eq_nil_iff.mpr fun c hc => by simp [(hq c hc).2]]
    rfl

theorem Handles.nothing (i : Instr) (s : State) : Handles i s s [] :=
  ⟨by simp, .inl rfl, .inl rfl, .inl rfl, id, id, .inl, by simp, .neither rfl rfl, by simp⟩

theorem Handles.boundary {α : Type} (i : Instr) (s : State) (r : Except OutOfRange α) (handle : α → State → State)
    (h : ∀ v, r = .ok v → ∃ new, Handles i s (handle v s) new) : ∃ new, Handles i s (atBoundary r handle s) new := by
  cases r with
  | ok v => exact h v rfl
  | error e => exact ⟨_, .stall i s⟩

/-- A packet with the magic header and at most 62 payload bytes has the form of R97. -/
theorem framed_packetOf (payload : List Byte) : framed (packetOf payload) = true := by
  simp [framed, packetOf, Config.hdr, Config.maxPayload, Config.maxPacket]
  omega

theorem Handles.descriptor (i : Instr) (s : State) (kind : DescKind) (index : Nat) :
    ∃ new, Handles i s (replyDescriptor kind index s) new :=
  Handles.boundary i s _ _ fun bytes _ =>
    ⟨_, .replyAfter i s [.descriptor kind index bytes] bytes (by simp [isControlQuery, isControlCall, isOutcome])⟩

theorem Handles.setsHalt (i : Instr) (s : State) (a : Byte) (b : Bool) :
    Handles i s (epStallSet a b s) [.epStallSet a b] := by
  refine ⟨by simp [isControlCall], .inl rfl, .inl rfl, .inl rfl, ?_, id, .inl, by simp, .neither rfl rfl,
    by simp [epStallSet, call]⟩
  exact sparseRising_sparseSet _ _

theorem Handles.clearsHalt (i : Instr) (s : State) (a : Byte) :
    Handles i s (epToggleReset a (epStallSet a false s)) [.epStallSet a false, .epToggleReset a] := by
  refine ⟨by simp [isControlCall], .inl rfl, .inl rfl, .inl rfl, ?_, ?_, .inl, by simp, .neither rfl rfl,
    by simp [epToggleReset, epStallSet, call]⟩
  · exact sparseRising_sparseSet _ _
  · exact sparseRising_sparseSet _ _

theorem Handles.changesSpeed (s : State) : ∃ t new, execChangeSpeed s = .next t ∧ Handles .changeSpeed s t new := by
  refine ⟨_, [.renumerate, .stageReply [echoByte (!s.speedMode)]], rfl, by simp [isControlCall], .inl rfl, .inr ?_, .inr ?_, fun _ => rfl,
    fun _ => rfl, ?_, by simp, .reply _ _ rfl rfl (by simp), by simp [stageReply, renumerate, call]⟩
  · intro packet hp
    obtain ⟨payload, -, rfl⟩ : ∃ payload, Config.renumPayload s.renums = some payload ∧ packetOf payload = packet := by
      simpa [stageReply, renumerate, call] using hp
    exact framed_packetOf payload
  · intro chunk hc
    obtain ⟨full, -, rfl⟩ : ∃ full ∈ Config.renumQueue s.renums, full.take s.params.maxChunk = chunk := by
      simpa [stageReply, renumerate, call] using hc
    simp
  · intro h
    cases h

theorem cfgOffset_lt (x : Byte) : cfgOffset x + 1 < 128 := by
  revert x
  decide

/-- The block's pair at an offset of READ_CONFIG is always there, and two reads are made (R183, R127). -/
theorem cfgPair_ok (s : State) (x : Byte) : ∃ b0 b1, cfgByteAt s.configBlock (cfgOffset x) = .ok b0
    ∧ cfgByteAt s.configBlock (cfgOffset x + 1) = .ok b1
    ∧ cfgPair (cfgOffset x) s = (.ok [b0, b1],
        { s with trace := s.trace ++ [.byteAt (cfgOffset x) (some b0), .byteAt (cfgOffset x + 1) (some b1)] }) := by
  have h1 := cfgOffset_lt x
  have h0 : cfgOffset x < 128 := by omega
  have e0 : cfgByteAt s.configBlock (cfgOffset x) = .ok s.configBlock[cfgOffset x] := by simp [cfgByteAt, h0]
  have e1 : cfgByteAt s.configBlock (cfgOffset x + 1) = .ok s.configBlock[cfgOffset x + 1] := by simp [cfgByteAt, h1]
  exact ⟨_, _, e0, e1, by simp [cfgPair, e0, e1, call, Except.toOption, Except.map]⟩

/-- Every request answers a next state and changes only what `Handles` says (R135, R168). -/
theorem exec_request (i : Instr) (s : State) (h : isRequest i = true) :
    ∃ t new, exec i s = .next t ∧ Handles i s t new := by
  have of : ∀ {t : State}, (∃ new, Handles i s t new) →
      ∃ u new, (.next t : Out) = .next u ∧ Handles i s u new := fun ⟨new, hn⟩ => ⟨_, new, rfl, hn⟩
  cases i
  case bbw => cases h
  case bbr => cases h
  case shw => cases h
  case shr => cases h
  case datw => cases h
  case datr => cases h
  case classAny => exact of ⟨_, .stall _ s⟩
  case reservedTypeAny => exact of ⟨_, .stall _ s⟩
  case start =>
    exact ⟨_, [], rfl, by simp, .inr ⟨rfl, rfl⟩, .inl rfl, .inl rfl, id, id, .inl, by simp, .neither rfl rfl, by simp⟩
  case vendorOutOther => exact of ⟨_, .nothing _ s⟩
  case readConfig x n =>
    obtain ⟨b0, b1, -, -, hp⟩ := cfgPair_ok s x
    simp only [exec, execReadConfig, hp, atBoundary]
    exact of ⟨_, .replyAfter _ s _ _ (by simp [isControlQuery, isControlCall, isOutcome])⟩
  case changeSpeed => exact Handles.changesSpeed s
  case changeMaster =>
    exact ⟨_, [.stageReply []], rfl, by simp [isControlCall], .inl rfl, .inl rfl, .inl rfl, id, id,
      fun h => Ep0.noConfusion h, by simp, .reply _ _ rfl rfl (by simp), by simp [stageReply, call]⟩
  case changeMode =>
    exact ⟨_, [.stageReply [echoByte (!s.syncMode)]], rfl, by simp [isControlCall], .inl rfl, .inl rfl, .inl rfl, id, id,
      fun h => Ep0.noConfusion h, by simp, .reply _ _ rfl rfl (by simp), by simp [stageReply, call]⟩
  case getVersion => exact of ⟨_, .reply _ s _⟩
  case vendorInOther => exact of ⟨_, .reply _ s _⟩
  case getConfiguration => exact of ⟨_, .reply _ s _⟩
  case getInterface => exact of ⟨_, .reply _ s _⟩
  case getDescriptorDevice => exact of (Handles.descriptor _ s _ _)
  case getDescriptorConfiguration => exact of (Handles.descriptor _ s _ _)
  case getDescriptorString => exact of (Handles.descriptor _ s _ _)
  case getDescriptorDeviceQualifier => exact of (Handles.descriptor _ s _ _)
  case getDescriptorOtherSpeed => exact of (Handles.descriptor _ s _ _)
  case getDescriptorOther => exact of ⟨_, .stall _ s⟩
  case getStatusDevice => exact of ⟨_, .reply _ s _⟩
  case getStatusInterface => exact of ⟨_, .reply _ s _⟩
  case getStatusEndpoint =>
    exact of (Handles.boundary _ s _ _ fun e _ =>
      ⟨_, .replyAfter _ s [.epStallGet e (epStalled e s)] _ (by simp [isControlQuery, isControlCall, isOutcome])⟩)
  case getStatusOther => exact of ⟨_, .stall _ s⟩
  case synchFrame => exact of ⟨_, .stall _ s⟩
  case standardInOther => exact of ⟨_, .stall _ s⟩
  case setConfiguration =>
    exact ⟨_, [], rfl, by simp, .inl rfl, .inl rfl, .inl rfl, id, id, .inl, by simp, .neither rfl rfl, by simp⟩
  case setInterface =>
    exact ⟨_, [], rfl, by simp, .inl rfl, .inl rfl, .inl rfl, id, id, .inl, by simp, .neither rfl rfl, by simp⟩
  case clearFeatureEndpoint sel a =>
    simp only [exec, execClearFeatureEndpoint]
    split
    · exact of (Handles.boundary _ s _ _ fun e _ => ⟨_, .clearsHalt _ s e⟩)
    · exact of ⟨_, .stall _ s⟩
  case setFeatureEndpoint sel a =>
    simp only [exec, execSetFeatureEndpoint]
    split
    · exact of (Handles.boundary _ s _ _ fun e _ => ⟨_, .setsHalt _ s e true⟩)
    · exact of ⟨_, .stall _ s⟩
  case clearFeatureDevice sel =>
    simp only [exec, execClearFeatureDevice]
    split
    · exact of ⟨_, .nothing _ s⟩
    · exact of ⟨_, .stall _ s⟩
  case setFeatureDevice sel =>
    simp only [exec, execSetFeatureDevice]
    split
    · exact of ⟨_, .nothing _ s⟩
    · exact of ⟨_, .stall _ s⟩
  case clearFeatureOther => exact of ⟨_, .stall _ s⟩
  case setFeatureOther => exact of ⟨_, .stall _ s⟩
  case setAddress => exact of ⟨_, .nothing _ s⟩
  case setDescriptor => exact of ⟨_, .stall _ s⟩
  case standardOutOther => exact of ⟨_, .stall _ s⟩
  case setupStep => cases h
  case ingest => cases h
  case dataPacket => cases h
  case keepalivePacket => cases h
  case tick => cases h
  case setupArrives => cases h
  case chunkArrives => cases h
  case hostTakesIn => cases h

end Sys2Proof.Machine
end

