-- ==== Sys2Proof/Laws/PerInstr.lean ====
section
/-! SUPPORT. One statement for every instruction, one lemma per constructor: the length of its encoding. -/

namespace Sys2Proof.Laws

/-- How many bytes an instruction's encoding has: one for a data-plane command, eight for a control request, and an event
has no bit pattern (30_encoding.md R90, R112). -/
def formatLength : Instr → Option Nat
  | .bbw _ => some 1
  | .bbr _ => some 1
  | .shw _ => some 1
  | .shr _ => some 1
  | .datw _ => some 1
  | .datr _ => some 1
  | .classAny => some 8
  | .reservedTypeAny => some 8
  | .start => some 8
  | .vendorOutOther _ => some 8
  | .readConfig _ _ => some 8
  | .changeSpeed => some 8
  | .changeMaster => some 8
  | .changeMode => some 8
  | .getVersion => some 8
  | .vendorInOther _ _ => some 8
  | .getConfiguration => some 8
  | .getInterface => some 8
  | .getDescriptorDevice => some 8
  | .getDescriptorConfiguration => some 8
  | .getDescriptorString _ => some 8
  | .getDescriptorDeviceQualifier => some 8
  | .getDescriptorOtherSpeed => some 8
  | .getDescriptorOther _ => some 8
  | .getStatusDevice => some 8
  | .getStatusInterface => some 8
  | .getStatusEndpoint _ => some 8
  | .getStatusOther _ => some 8
  | .synchFrame => some 8
  | .standardInOther _ => some 8
  | .setConfiguration _ => some 8
  | .setInterface _ => some 8
  | .clearFeatureEndpoint _ _ => some 8
  | .setFeatureEndpoint _ _ => some 8
  | .clearFeatureDevice _ => some 8
  | .setFeatureDevice _ => some 8
  | .clearFeatureOther _ => some 8
  | .setFeatureOther _ => some 8
  | .setAddress => some 8
  | .setDescriptor => some 8
  | .standardOutOther _ => some 8
  | .setupStep => none
  | .ingest => none
  | .dataPacket => none
  | .keepalivePacket => none
  | .tick => none
  | .setupArrives _ => none
  | .chunkArrives _ => none
  | .hostTakesIn => none

/-- The encoding has the length of the instruction's format, whatever the parameters (R90). -/
def EncodedLength.Statement (i : Instr) : Prop := ∀ p : Params, (encode p i).map List.length = formatLength i

theorem EncodedLength.bbw (l : Six) : EncodedLength.Statement (.bbw l) := fun _ => rfl
theorem EncodedLength.bbr (l : Six) : EncodedLength.Statement (.bbr l) := fun _ => rfl
theorem EncodedLength.shw (n : Six) : EncodedLength.Statement (.shw n) := fun _ => rfl
theorem EncodedLength.shr (n : Six) : EncodedLength.Statement (.shr n) := fun _ => rfl
theorem EncodedLength.datw (d : Byte) : EncodedLength.Statement (.datw d) := fun _ => rfl
theorem EncodedLength.datr (d : Byte) : EncodedLength.Statement (.datr d) := fun _ => rfl
theorem EncodedLength.classAny : EncodedLength.Statement (.classAny) := fun _ => rfl
theorem EncodedLength.reservedTypeAny : EncodedLength.Statement (.reservedTypeAny) := fun _ => rfl
theorem EncodedLength.start : EncodedLength.Statement (.start) := fun _ => rfl
theorem EncodedLength.vendorOutOther (code : Byte) : EncodedLength.Statement (.vendorOutOther code) := fun _ => rfl
theorem EncodedLength.readConfig (indexL : Byte) (length : Half) : EncodedLength.Statement (.readConfig indexL length) := fun _ => rfl
theorem EncodedLength.changeSpeed : EncodedLength.Statement (.changeSpeed) := fun _ => rfl
theorem EncodedLength.changeMaster : EncodedLength.Statement (.changeMaster) := fun _ => rfl
theorem EncodedLength.changeMode : EncodedLength.Statement (.changeMode) := fun _ => rfl
theorem EncodedLength.getVersion : EncodedLength.Statement (.getVersion) := fun _ => rfl
theorem EncodedLength.vendorInOther (code : Byte) (length : Half) : EncodedLength.Statement (.vendorInOther code length) := fun _ => rfl
theorem EncodedLength.getConfiguration : EncodedLength.Statement (.getConfiguration) := fun _ => rfl
theorem EncodedLength.getInterface : EncodedLength.Statement (.getInterface) := fun _ => rfl
theorem EncodedLength.getDescriptorDevice : EncodedLength.Statement (.getDescriptorDevice) := fun _ => rfl
theorem EncodedLength.getDescriptorConfiguration : EncodedLength.Statement (.getDescriptorConfiguration) := fun _ => rfl
theorem EncodedLength.getDescriptorString (index : Byte) : EncodedLength.Statement (.getDescriptorString index) := fun _ => rfl
theorem EncodedLength.getDescriptorDeviceQualifier : EncodedLength.Statement (.getDescriptorDeviceQualifier) := fun _ => rfl
theorem EncodedLength.getDescriptorOtherSpeed : EncodedLength.Statement (.getDescriptorOtherSpeed) := fun _ => rfl
theorem EncodedLength.getDescriptorOther (type : Byte) : EncodedLength.Statement (.getDescriptorOther type) := fun _ => rfl
theorem EncodedLength.getStatusDevice : EncodedLength.Statement (.getStatusDevice) := fun _ => rfl
theorem EncodedLength.getStatusInterface : EncodedLength.Statement (.getStatusInterface) := fun _ => rfl
theorem EncodedLength.getStatusEndpoint (a : Byte) : EncodedLength.Statement (.getStatusEndpoint a) := fun _ => rfl
theorem EncodedLength.getStatusOther (recipient : BitVec 5) : EncodedLength.Statement (.getStatusOther recipient) := fun _ => rfl
theorem EncodedLength.synchFrame : EncodedLength.Statement (.synchFrame) := fun _ => rfl
theorem EncodedLength.standardInOther (code : Byte) : EncodedLength.Statement (.standardInOther code) := fun _ => rfl
theorem EncodedLength.setConfiguration (value : Byte) : EncodedLength.Statement (.setConfiguration value) := fun _ => rfl
theorem EncodedLength.setInterface (value : Byte) : EncodedLength.Statement (.setInterface value) := fun _ => rfl
theorem EncodedLength.clearFeatureEndpoint (selector : Byte) (a : Byte) : EncodedLength.Statement (.clearFeatureEndpoint selector a) := fun _ => rfl
theorem EncodedLength.setFeatureEndpoint (selector : Byte) (a : Byte) : EncodedLength.Statement (.setFeatureEndpoint selector a) := fun _ => rfl
theorem EncodedLength.clearFeatureDevice (selector : Byte) : EncodedLength.Statement (.clearFeatureDevice selector) := fun _ => rfl
theorem EncodedLength.setFeatureDevice (selector : Byte) : EncodedLength.Statement (.setFeatureDevice selector) := fun _ => rfl
theorem EncodedLength.clearFeatureOther (recipient : BitVec 5) : EncodedLength.Statement (.clearFeatureOther recipient) := fun _ => rfl
theorem EncodedLength.setFeatureOther (recipient : BitVec 5) : EncodedLength.Statement (.setFeatureOther recipient) := fun _ => rfl
theorem EncodedLength.setAddress : EncodedLength.Statement (.setAddress) := fun _ => rfl
theorem EncodedLength.setDescriptor : EncodedLength.Statement (.setDescriptor) := fun _ => rfl
theorem EncodedLength.standardOutOther (code : Byte) : EncodedLength.Statement (.standardOutOther code) := fun _ => rfl
theorem EncodedLength.setupStep : EncodedLength.Statement (.setupStep) := fun _ => rfl
theorem EncodedLength.ingest : EncodedLength.Statement (.ingest) := fun _ => rfl
theorem EncodedLength.dataPacket : EncodedLength.Statement (.dataPacket) := fun _ => rfl
theorem EncodedLength.keepalivePacket : EncodedLength.Statement (.keepalivePacket) := fun _ => rfl
theorem EncodedLength.tick : EncodedLength.Statement (.tick) := fun _ => rfl
theorem EncodedLength.setupArrives (d : SetupDesc) : EncodedLength.Statement (.setupArrives d) := fun _ => rfl
theorem EncodedLength.chunkArrives (chunk : List Byte) : EncodedLength.Statement (.chunkArrives chunk) := fun _ => rfl
theorem EncodedLength.hostTakesIn : EncodedLength.Statement (.hostTakesIn) := fun _ => rfl

end Sys2Proof.Laws
end

