-- ==== Sys2Proof/Laws/Step.lean ====
section
/-! SUPPORT. What each part of an iteration can do, and what a step can do, said once (44_packet_framer.md,
45_event_loop.md). -/

namespace Sys2Proof.Machine

/-- The state in which the oldest chunk has been taken (R221, R47, R48). -/
def chunkTaken (chunk : List Byte) (queue : List (List Byte)) (s : State) : State :=
  { s with outQueue := queue, outChunk := chunk, pc := 0,
           trace := s.trace ++ [.outCount (some chunk.length), .outTake chunk] }

/-- With its condition met the ingestion interprets the chunk taken (R221). -/
theorem exec_ingest_taken {s : State} {chunk : List Byte} {queue : List (List Byte)} (hr : s.running = true)
    (hq : s.outQueue = chunk :: queue) (hp : s.pending < Config.gate) :
    exec .ingest s = interpretBytes chunk.length (chunkTaken chunk queue s) := by
  have ho : outTake (call (.outCount (some chunk.length)) s) = chunkTaken chunk queue s := by
    rw [outTake_cons (by simpa using hq)]
    simp [chunkTaken, call]
  simp [exec, execIngest, hr, hq, hp, ho, ingestChunk]
  rfl

/-- Outside its condition it makes at most its query (R222, R242). -/
theorem exec_ingest_idle {s : State} (h : ingestEnabled s = false) :
    exec .ingest s = .next (if s.running then call (countQuery s) s else s) := by
  cases hr : s.running with
  | false => simp [exec, execIngest, hr]
  | true =>
    cases hq : s.outQueue <;> simp [ingestEnabled, hr, hq] at h <;> simp [exec, execIngest, hr, hq, countQuery]
    omega

/-- An ingestion outside its condition makes at most its query; else it interprets the oldest chunk from its start to its
end, or appends more than the ring has room for (R221, R200). -/
theorem exec_ingest (s : State) :
    (ingestEnabled s = false ∧ exec .ingest s = .next (if s.running then call (countQuery s) s else s))
    ∨ ∃ chunk queue, s.running = true ∧ s.outQueue = chunk :: queue ∧ s.pending < Config.gate ∧
      ((∃ t new vs, exec .ingest s = .next t ∧ t.pc = chunk.length ∧ vs.length ≤ chunk.length
          ∧ Interprets (chunkTaken chunk queue s) t new vs)
        ∨ (Config.cap < s.pending + chunk.length ∧ exec .ingest s = .fault .ringOverflow)) := by
  cases he : ingestEnabled s with
  | false => exact .inl ⟨rfl, exec_ingest_idle he⟩
  | true =>
    right
    cases hq : s.outQueue with
    | nil => simp [ingestEnabled, hq] at he
    | cons chunk queue =>
      have hr : s.running = true ∧ s.pending < Config.gate := by simpa [ingestEnabled, hq] using he
      refine ⟨chunk, queue, hr.1, rfl, hr.2, ?_⟩
      rw [exec_ingest_taken hr.1 hq hr.2]
      simpa [chunkTaken] using interpretBytes_spec chunk.length (chunkTaken chunk queue s)

/-- A data packet outside its condition makes at most its query; else it takes the oldest bytes and submits them (R226). -/
theorem exec_dataPacket (s : State) :
    (s.running = false ∧ exec .dataPacket s = .next s)
    ∨ (s.running = true ∧ (s.inBusy = true ∨ s.pending = 0) ∧ exec .dataPacket s = .next (call (.inBusy s.inBusy) s))
    ∨ (s.running = true ∧ s.inBusy = false ∧ 0 < s.pending
      ∧ exec .dataPacket s =
        .next (armTick (inSubmit (dataPacketOf s) (ringTake (payloadLength s) (call (.inBusy false) s))))) := by
  cases hr : s.running <;> cases hb : s.inBusy <;> by_cases hp : s.pending = 0 <;>
    simp [exec, execDataPacket, whenEndpointFree, hr, hb, hp, Nat.pos_iff_ne_zero]
  rfl

/-- A keepalive outside its condition makes at most its query; else it submits the bare header and clears the flag
(R227). -/
theorem exec_keepalivePacket (s : State) :
    (s.running = false ∧ exec .keepalivePacket s = .next s)
    ∨ (s.running = true ∧ (s.inBusy = true ∨ 0 < s.pending ∨ s.tickFlag = false)
      ∧ exec .keepalivePacket s = .next (call (.inBusy s.inBusy) s))
    ∨ (s.running = true ∧ s.inBusy = false ∧ s.pending = 0 ∧ s.tickFlag = true
      ∧ exec .keepalivePacket s = .next { inSubmit Config.hdr (call (.inBusy false) s) with tickFlag := false }) := by
  cases hr : s.running <;> cases hb : s.inBusy <;> cases ht : s.tickFlag <;> by_cases hp : s.pending = 0 <;>
    simp [exec, execKeepalivePacket, whenEndpointFree, hr, hb, ht, hp, Nat.pos_iff_ne_zero]

/-- The packet of a data packet has the form of R97. -/
theorem framed_dataPacketOf (s : State) : framed (dataPacketOf s) = true := by
  simp [framed, dataPacketOf, Config.hdr, ringRun, payloadLength, Config.maxPayload, Config.maxPacket]
  omega

/-- The decoder of a descriptor yields a request (R168). -/
theorem isRequest_decodeSetup (p : Params) (d : SetupDesc) : isRequest (decodeSetup p d) = true := by
  have vendor : isRequest (decodeVendor p d) = true := by unfold decodeVendor; split_ifs <;> rfl
  have descriptor : isRequest (decodeGetDescriptor d) = true := by unfold decodeGetDescriptor; split_ifs <;> rfl
  have status : isRequest (decodeGetStatus d) = true := by unfold decodeGetStatus; split_ifs <;> rfl
  have clear : isRequest (decodeClearFeature d) = true := by unfold decodeClearFeature; split_ifs <;> rfl
  have set : isRequest (decodeSetFeature d) = true := by unfold decodeSetFeature; split_ifs <;> rfl
  have standardIn : isRequest (decodeStandardIn d) = true := by
    unfold decodeStandardIn; split_ifs <;> first | assumption | rfl
  have standardOut : isRequest (decodeStandardOut d) = true := by
    unfold decodeStandardOut; split_ifs <;> first | assumption | rfl
  unfold decodeSetup
  split_ifs <;> first | assumption | rfl

/-- A setup step with a setup pending runs the one request, then acknowledges the handshake; it always answers a next
state (R241, R135). -/
theorem exec_setupStep {s : State} (h : s.setupPending = true) :
    ∃ t new, exec .setupStep s = .next (ackHandshake s.setupDesc.wLength t)
      ∧ exec (decodeSetup s.params s.setupDesc) { s with setupPending := false, ep0 := .empty } = .next t
      ∧ Handles (decodeSetup s.params s.setupDesc) { s with setupPending := false, ep0 := .empty } t new := by
  obtain ⟨t, new, he, hh⟩ := exec_request (decodeSetup s.params s.setupDesc)
    { s with setupPending := false, ep0 := .empty } (isRequest_decodeSetup _ _)
  refine ⟨t, new, ?_, he, hh⟩
  have hx : exec .setupStep s = execSetupStep s := rfl
  simp only [hx, execSetupStep, h, if_true, handleSetup, vendorHookHandles, Bool.true_eq_false, and_false, if_false,
    runCommand_eq_exec _ (isEvent_decodeSetup _ _), he, andThen_next]

/-- With none pending it does nothing (R241). -/
theorem exec_setupStep_idle {s : State} (h : s.setupPending = false) : exec .setupStep s = .next s := by
  simp [exec, execSetupStep, h]

/-- The next turn: the core's, or an enabled event's; the script loses at most its head (R244). -/
theorem nextTurn_spec (s : State) :
    ∃ rest, (nextTurn s).2.2 = { s with turns := rest } ∧ (∀ turn ∈ rest, turn ∈ s.turns)
      ∧ (((nextTurn s).1 = coreInstr s ∧ (nextTurn s).2.1 = true)
        ∨ ∃ turn ∈ s.turns, turnEnabled s turn = true ∧ turnEvent turn = some (nextTurn s).1 ∧ (nextTurn s).2.1 = false) := by
  unfold nextTurn
  split
  · exact ⟨s.turns, rfl, fun _ h => h, .inl ⟨rfl, rfl⟩⟩
  · rename_i turn rest ht
    split
    · rename_i he
      split
      · rename_i i hi
        exact ⟨rest, rfl, fun x hx => by simp [ht, hx], .inr ⟨turn, by simp [ht], he, hi, rfl⟩⟩
      · exact ⟨rest, rfl, fun x hx => by simp [ht, hx], .inl ⟨rfl, rfl⟩⟩
    · exact ⟨s.turns, rfl, fun _ h => h, .inl ⟨rfl, rfl⟩⟩

/-- An enabled event answers a next state, and only these (R267 to R270). -/
theorem exec_event {s : State} {turn : Turn} {i : Instr} (he : turnEnabled s turn = true) (hi : turnEvent turn = some i) :
    (i = .tick ∧ exec i s = .next { s with tickFlag := true })
    ∨ (∃ d, turn = .setupArrives d ∧ i = .setupArrives d ∧ s.setupPending = false
        ∧ exec i s = .next { s with setupDesc := d, setupPending := true })
    ∨ (∃ chunk, turn = .chunkArrives chunk ∧ i = .chunkArrives chunk
        ∧ exec i s = .next { s with outQueue := s.outQueue ++ [chunk] })
    ∨ (i = .hostTakesIn ∧ s.inBusy = true
        ∧ exec i s = .next { s with inBusy := false, inPkt := none, hostIn := s.hostIn ++ s.inPkt.toList }) := by
  cases turn with
  | core => cases hi
  | tick => cases hi; exact .inl ⟨rfl, rfl⟩
  | setupArrives d =>
    cases hi
    have hp : s.setupPending = false := by simpa [turnEnabled] using he
    exact .inr (.inl ⟨d, rfl, rfl, hp, by simp [exec, execSetupArrives, hp]⟩)
  | chunkArrives chunk => cases hi; exact .inr (.inr (.inl ⟨chunk, rfl, rfl, rfl⟩))
  | hostTakesIn =>
    cases hi
    have hb : s.inBusy = true := by simpa [turnEnabled] using he
    exact .inr (.inr (.inr ⟨rfl, hb, by simp [exec, execHostTakesIn, hb]⟩))

/-- The core's turns (R240, R272). -/
theorem coreInstr_cases (s : State) :
    (s.phase = .setup ∧ coreInstr s = .setupStep) ∨ (s.phase = .ingest ∧ coreInstr s = .ingest)
    ∨ (s.phase = .emit ∧ 0 < s.pending ∧ coreInstr s = .dataPacket)
    ∨ (s.phase = .emit ∧ s.pending = 0 ∧ coreInstr s = .keepalivePacket) := by
  unfold coreInstr
  split
  · simp [*]
  · simp [*]
  · split
    · simp [*]
    · simp [*]
      omega

/-- A step is its instruction's outcome, with the next part of the iteration due after a turn of the core. -/
theorem step_eq_next {s t : State} :
    step s = .next t ↔ ∃ m, exec (nextTurn s).1 (nextTurn s).2.2 = .next m
      ∧ t = { m with phase := if (nextTurn s).2.1 then nextPhase m.phase else m.phase } := by
  simp only [step, andThen_eq_next, afterTurn]
  refine exists_congr fun m => and_congr_right fun _ => ?_
  cases (nextTurn s).2.1 <;> simp [eq_comm]

end Sys2Proof.Machine
end

