-- ==== Sys2Proof/Tests/Slice0.lean ====
section
/-! SUPPORT. Tests: the checks of WellFormed refuse an ill-formed term each; words written out from 30_encoding.md and
95_test_vectors.md decode to what they stand for; vectors V<n> and S<n> of 95_test_vectors.md on single steps; and, for every
statement with hypotheses, a state and operands that meet them (`witness_` and the statement's name). -/

namespace Sys2Proof.Machine.Test

/-! The example parameters of vector V30, and small states. -/

def exampleDesc : DescSet where
  device := [0x12, 0x01]
  deviceQualifier := [0x0A, 0x06]
  configuration := [0x09, 0x02]
  otherSpeed := [0x09, 0x07]
  strings := [[0x04, 0x03, 0x09, 0x04], [0x02, 0x03], [], [0x04, 0x03, 0x41, 0x00]]

def exampleParams : Params where
  maxChunk := 64
  shiftLsbFirst := true
  armSetsTick := true
  vrStart := 0x00
  vrReadConfig := 0x90
  vrChangeSpeed := 0x91
  vrChangeMaster := 0x92
  vrChangeMode := 0x93
  vrGetVersion := 0x94
  fwVersion := [0x31, 0x2E, 0x30]
  epStatusLen := .one
  numStrings := 4
  cksumSeed := 0xAAAA
  strBase := 0x80
  cfgReserved := #v[0x00, 0x00]
  cfgIdentity := #v[0xFB, 0x09, 0x01, 0x60, 0x00, 0x04]
  cfgPower := #v[0x80, 0x32]
  cfgMarker := #v[0x1C, 0x00]
  cfgUsbVer := #v[0x00, 0x02]
  cfgStr1 := [0x0E, 0x03, 0x41, 0x00, 0x6C, 0x00, 0x74, 0x00, 0x65, 0x00, 0x72, 0x00, 0x61, 0x00]
  cfgStr2 := [0x18, 0x03, 0x55, 0x00, 0x53, 0x00, 0x42, 0x00, 0x2D, 0x00, 0x42, 0x00, 0x6C, 0x00, 0x61, 0x00, 0x73, 0x00,
    0x74, 0x00, 0x65, 0x00, 0x72, 0x00]
  cfgStr3 := [0x12, 0x03, 0x30, 0x00, 0x30, 0x00, 0x30, 0x00, 0x30, 0x00, 0x30, 0x00, 0x30, 0x00, 0x30, 0x00, 0x30, 0x00]
  cfgStrOrder := #v[0x02, 0x03, 0x01, 0x00]
  resetSpeedMode := false
  resetJtagMaster := true
  resetSyncMode := true
  desc := { normal := exampleDesc, alternate := exampleDesc }

/-- A stopped machine with the example parameters; `TickFlag` drawn false; the calls counted from here on. -/
def stopped : State :=
  { State.reset with
    params := exampleParams
    tickFlag := false
    speedMode := exampleParams.resetSpeedMode
    jtagMaster := exampleParams.resetJtagMaster
    syncMode := exampleParams.resetSyncMode
    configBlock := cfgBlock exampleParams
    desc := exampleParams.desc
    trace := [] }

/-- The same with the engine running. -/
def idle : State := { stopped with running := true }

/-- Byte-shift mode. -/
def shifting (writeOnly : Bool) (count : Six) : State := { idle with writeOnly := writeOnly, pendingShiftCount := count }

/-- A setup waits, and its turn is next. -/
def asked (d : SetupDesc) (s : State) : State := { s with setupPending := true, setupDesc := d }

/-- The next state of an outcome. -/
def nextOf (o : Out) : Option State :=
  match o with
  | .next t => some t
  | _ => none

/-- What a request does to the data phase and which calls it makes. -/
def reply (i : Instr) (s : State) : Option (Ep0 × List Call) := (nextOf (exec i s)).map (fun t => (t.ep0, t.trace))

/-- A reply staged after some queries. -/
def saidAfter (queries : List Call) (bytes : List Byte) : Option (Ep0 × List Call) :=
  some (.staged bytes true, queries ++ [.stageReply bytes])

/-- A staged reply. -/
def said (bytes : List Byte) : Option (Ep0 × List Call) := saidAfter [] bytes

/-- A stall. -/
def stalls : Option (Ep0 × List Call) := some (.stalled, [.stall])

/-- A request handled with neither. -/
def silent : Option (Ep0 × List Call) := some (.empty, [])

/-- The request that eight bytes stand for, none left over. -/
def readSetup (bytes : List Byte) : Option Instr :=
  match decode exampleParams .setup bytes with
  | .ok (i, []) => some i
  | _ => none

/-! WellFormed refuses. -/

theorem test_wf_example : exampleParams.wf = true := by decide
theorem test_wf_refuses_long_chunk : ({ exampleParams with maxChunk := 65 } : Params).wf = false := by decide
theorem test_wf_refuses_equal_codes : ({ exampleParams with vrChangeMode := 0x90 } : Params).wf = false := by decide
theorem test_wf_refuses_empty_version : ({ exampleParams with fwVersion := [] } : Params).wf = false := by decide
theorem test_wf_refuses_zero_in_version : ({ exampleParams with fwVersion := [0x31, 0] } : Params).wf = false := by decide
theorem test_wf_refuses_non_ascii : ({ exampleParams with fwVersion := [0x80] } : Params).wf = false := by decide
theorem test_wf_refuses_long_strings :
    ({ exampleParams with cfgStr1 := List.replicate 61 0 } : Params).wf = false := by decide
theorem test_wf_refuses_string_count : ({ exampleParams with numStrings := 5 } : Params).wf = false := by decide
theorem test_wf_refuses_alternate_strings :
    ({ exampleParams with desc := { normal := exampleDesc, alternate := { exampleDesc with strings := [] } } } : Params).wf
      = false := by decide
theorem test_wf_refuses_start_as_other : wellFormed exampleParams (.vendorOutOther 0x00) = false := by decide
theorem test_wf_refuses_read_config_as_other : wellFormed exampleParams (.vendorInOther 0x90 2) = false := by decide
theorem test_wf_refuses_device_as_other : wellFormed exampleParams (.getDescriptorOther 0x01) = false := by decide
theorem test_wf_refuses_endpoint_as_other : wellFormed exampleParams (.getStatusOther 2) = false := by decide
theorem test_wf_refuses_in_code_as_other : wellFormed exampleParams (.standardInOther 0x08) = false := by decide
theorem test_wf_refuses_clear_endpoint_as_other : wellFormed exampleParams (.clearFeatureOther 2) = false := by decide
theorem test_wf_refuses_set_device_as_other : wellFormed exampleParams (.setFeatureOther 0) = false := by decide
theorem test_wf_refuses_out_code_as_other : wellFormed exampleParams (.standardOutOther 0x09) = false := by decide
theorem test_wf_refuses_chunk_of_65 : wellFormed exampleParams (.chunkArrives (List.replicate 65 0)) = false := by decide
theorem test_wf_accepts_chunk_of_64 : wellFormed exampleParams (.chunkArrives (List.replicate 64 0)) = true := by decide

/-! Words of the bulk-OUT stream (30_encoding.md R91, R93, R104). -/

theorem test_decode_bbw : decodeByte 0 false 0b00100011 = .bbw 0b100011 := by decide
theorem test_decode_bbr : decodeByte 0 true 0b01010101 = .bbr 0b010101 := by decide
theorem test_decode_shw : decodeByte 0 true 0b10111111 = .shw 63 := by decide
theorem test_decode_shr : decodeByte 0 true 0b11000101 = .shr 5 := by decide
theorem test_decode_datw : decodeByte 2 true 0b11000101 = .datw 0xC5 := by decide
theorem test_decode_datr : decodeByte 63 false 0b10000000 = .datr 0x80 := by decide

/-! Setup descriptors (95_test_vectors.md 2.6 and 2.7). -/

theorem test_decode_class : readSetup [0x21, 0x09, 0, 0, 0, 0, 0, 0] = some .classAny := by decide
theorem test_decode_reserved : readSetup [0xE0, 0, 0, 0, 0, 0, 2, 0] = some .reservedTypeAny := by decide
theorem test_decode_start : readSetup [0x41, 0x00, 0xAA, 0xBB, 1, 2, 3, 0] = some .start := by decide
theorem test_decode_vendor_out : readSetup [0x40, 0x03, 0x1A, 0x41, 0, 0, 0, 0] = some (.vendorOutOther 3) := by decide
theorem test_decode_read_config :
    readSetup [0xC0, 0x90, 0, 0, 0xC1, 0, 0, 1] = some (.readConfig 0xC1 0x0100) := by decide
theorem test_decode_change_speed : readSetup [0xC0, 0x91, 0, 0, 0, 0, 1, 0] = some .changeSpeed := by decide
theorem test_decode_change_master : readSetup [0xC0, 0x92, 0, 0, 0, 0, 0, 0] = some .changeMaster := by decide
theorem test_decode_change_mode : readSetup [0xC0, 0x93, 0, 0, 0, 0, 1, 0] = some .changeMode := by decide
theorem test_decode_get_version : readSetup [0xC0, 0x94, 0, 0, 0, 0, 0x40, 0] = some .getVersion := by decide
theorem test_decode_vendor_in : readSetup [0xC0, 0x00, 0, 0, 0, 0, 2, 0] = some (.vendorInOther 0 2) := by decide
theorem test_decode_get_configuration : readSetup [0x80, 0x08, 0, 0, 0, 0, 1, 0] = some .getConfiguration := by decide
theorem test_decode_get_interface : readSetup [0x81, 0x0A, 0, 0, 0, 0, 1, 0] = some .getInterface := by decide
theorem test_decode_device : readSetup [0x80, 0x06, 0, 1, 0, 0, 0x12, 0] = some .getDescriptorDevice := by decide
theorem test_decode_configuration :
    readSetup [0x80, 0x06, 0, 2, 0, 0, 9, 0] = some .getDescriptorConfiguration := by decide
theorem test_decode_string : readSetup [0x80, 0x06, 4, 3, 9, 4, 0xFF, 0] = some (.getDescriptorString 4) := by decide
theorem test_decode_qualifier :
    readSetup [0x80, 0x06, 0, 6, 0, 0, 0x0A, 0] = some .getDescriptorDeviceQualifier := by decide
theorem test_decode_other_speed : readSetup [0x80, 0x06, 0, 7, 0, 0, 9, 0] = some .getDescriptorOtherSpeed := by decide
theorem test_decode_unknown_type :
    readSetup [0x81, 0x06, 0, 0x22, 0, 0, 9, 0] = some (.getDescriptorOther 0x22) := by decide
theorem test_decode_status_device : readSetup [0x80, 0, 0, 0, 0, 0, 2, 0] = some .getStatusDevice := by decide
theorem test_decode_status_interface : readSetup [0x81, 0, 0, 0, 0, 0, 2, 0] = some .getStatusInterface := by decide
theorem test_decode_status_endpoint :
    readSetup [0x82, 0, 0, 0, 0x81, 0, 2, 0] = some (.getStatusEndpoint 0x81) := by decide
theorem test_decode_status_other : readSetup [0x83, 0, 0, 0, 0, 0, 2, 0] = some (.getStatusOther 3) := by decide
theorem test_decode_synch_frame : readSetup [0x82, 0x0C, 0, 0, 0x82, 0, 2, 0] = some .synchFrame := by decide
theorem test_decode_standard_in : readSetup [0x80, 0x09, 1, 0, 0, 0, 0, 0] = some (.standardInOther 9) := by decide
theorem test_decode_set_configuration :
    readSetup [0x00, 0x09, 0xFF, 0x12, 0, 0, 0, 0] = some (.setConfiguration 0xFF) := by decide
theorem test_decode_set_interface : readSetup [0x01, 0x0B, 5, 0, 2, 0, 0, 0] = some (.setInterface 5) := by decide
theorem test_decode_clear_halt :
    readSetup [0x02, 0x01, 1, 0, 0x81, 0, 0, 0] = some (.clearFeatureEndpoint 1 0x81) := by decide
theorem test_decode_set_halt :
    readSetup [0x02, 0x03, 0, 0, 0x0A, 0, 0, 0] = some (.setFeatureEndpoint 0 0x0A) := by decide
theorem test_decode_clear_device : readSetup [0x00, 0x01, 2, 0, 0, 0, 0, 0] = some (.clearFeatureDevice 2) := by decide
theorem test_decode_set_device : readSetup [0x00, 0x03, 1, 0, 0, 0, 0, 0] = some (.setFeatureDevice 1) := by decide
theorem test_decode_clear_other : readSetup [0x1F, 0x01, 0, 0, 0, 0, 0, 0] = some (.clearFeatureOther 31) := by decide
theorem test_decode_set_other : readSetup [0x01, 0x03, 0, 0, 0, 0, 0, 0] = some (.setFeatureOther 1) := by decide
theorem test_decode_set_address : readSetup [0x00, 0x05, 7, 0, 0, 0, 0, 0] = some .setAddress := by decide
theorem test_decode_set_descriptor : readSetup [0x00, 0x07, 0, 1, 0, 0, 0x12, 0] = some .setDescriptor := by decide
theorem test_decode_standard_out : readSetup [0x00, 0x0C, 0, 0, 0, 0, 0, 0] = some (.standardOutOther 12) := by decide
theorem test_decode_short : readSetup [0x80, 0x06, 0, 1, 0, 0, 0x12] = none := by decide

/-! The Configuration Store. -/

/-- S3: exactly the twelve plausible values. -/
theorem test_plausible :
    (List.range 256).filter (fun a => plausible (BitVec.ofNat 8 a)) =
      [0x00, 0x01, 0x02, 0x04, 0x06, 0x08, 0x80, 0x81, 0x82, 0x84, 0x86, 0x88] := by decide +kernel

/-- V30: the string table and the checksum. -/
theorem test_block_v30 :
    ((cfgBytes exampleParams).drop 14).take 6 = [0x94, 0x0E, 0xA2, 0x18, 0xBA, 0x12]
      ∧ (cfgBytes exampleParams).drop 126 = [0x50, 0xF4] := by decide +kernel

/-- V35: the accumulator over 126 zero bytes. -/
theorem test_checksum_v35 : checksum 0xAAAA (List.replicate 126 0) = 0x5555 := by decide +kernel

/-- V36: the byte read and its failure. -/
theorem test_byte_at : (cfgByteAt stopped.configBlock 128).toOption = none ∧
    (cfgByteAt stopped.configBlock 2).toOption = some 0xFB := by decide +kernel

/-! The data plane (V3 to V16). -/

theorem test_bbw : (nextOf (exec (.bbw 0x23) { idle with writeOnly := false })).map (fun t => (t.writeOnly, t.trace))
    = some (true, [.setLines 0x23]) := by decide
theorem test_bbr_zero : (nextOf (exec (.bbr 0) { idle with lineIn := [false] })).map (fun t => (t.trace, ringContents t))
    = some ([.setLines 0, .getState false], [0x02]) := by decide
theorem test_bbr_wraps : (nextOf (exec (.bbr 0x3F) { idle with lineIn := [true], rdCursor := 250, pending := 6 })).map
    (fun t => (t.writeOnly, t.ring)) = some (false, [(0, 0x03)]) := by decide
theorem test_shw : (nextOf (exec (.shw 63) idle)).map (fun t => (t.writeOnly, t.pendingShiftCount, t.trace))
    = some (true, 63, []) := by decide
theorem test_shr : (nextOf (exec (.shr 5) idle)).map (fun t => (t.writeOnly, t.pendingShiftCount, t.pending))
    = some (false, 5, 0) := by decide
theorem test_datw_lsb : (nextOf (exec (.datw 0x01) (shifting true 1))).map (fun t => (t.pendingShiftCount, t.trace))
    = some (0, [.shiftOut true, .shiftOut false, .shiftOut false, .shiftOut false, .shiftOut false, .shiftOut false,
        .shiftOut false, .shiftOut false]) := by decide
theorem test_datw_msb : (nextOf (exec (.datw 0x01)
    { shifting true 1 with params := { exampleParams with shiftLsbFirst := false } })).map (fun t => t.trace)
    = some [.shiftOut false, .shiftOut false, .shiftOut false, .shiftOut false, .shiftOut false, .shiftOut false,
        .shiftOut false, .shiftOut true] := by decide
theorem test_datr_lsb : (nextOf (exec (.datr 0xA5)
    { shifting false 5 with lineIn := [false, false, false, false, true, true, true, true] })).map
    (fun t => (t.pendingShiftCount, ringContents t)) = some (4, [0xF0]) := by decide
theorem test_datr_msb : (nextOf (exec (.datr 0xA5)
    { shifting false 5 with params := { exampleParams with shiftLsbFirst := false }
                            lineIn := [false, false, false, false, true, true, true, true] })).map ringContents
    = some [0x0F] := by decide

/-! Ingestion and emission (V20 to V34). -/

/-- P3: the second chunk's first two bytes are data. -/
theorem test_ingest_carries_count : (nextOf (exec .ingest
    { shifting true 2 with outQueue := [[0x22, 0x33, 0x63]], lineIn := [true] })).map
    (fun t => (t.pendingShiftCount, t.writeOnly, t.pc, ringContents t)) = some (0, false, 3, [0x03]) := by decide
/-- V34: 65 read commands on 192 pending bytes. -/
theorem test_ingest_overflows : exec .ingest { idle with pending := 192, outQueue := [List.replicate 65 0x40] }
    = .fault .ringOverflow := by rfl
/-- V23: the run crosses address 255. -/
theorem test_data_packet_wraps : (nextOf (exec .dataPacket { idle with
      rdCursor := 254, pending := 3, ring := [(0, 0xA2), (254, 0xA0), (255, 0xA1)] })).map
    (fun t => (t.inPkt, t.rdCursor, t.pending, t.tickFlag)) = some (some [0x31, 0x60, 0xA0, 0xA1, 0xA2], 1, 0, true) := by
  decide
/-- V22 without arming: 62 of 63 bytes leave. -/
theorem test_data_packet_takes_62 : (nextOf (exec .dataPacket { idle with
      params := { exampleParams with armSetsTick := false }, pending := 63 })).map
    (fun t => (t.rdCursor, t.pending, t.tickFlag)) = some (62, 1, false) := by decide
/-- V24. -/
theorem test_keepalive : (nextOf (exec .keepalivePacket { idle with tickFlag := true })).map
    (fun t => (t.inPkt, t.tickFlag, t.inBusy)) = some (some [0x31, 0x60], false, true) := by decide
/-- V25. -/
theorem test_keepalive_needs_tick : (nextOf (exec .keepalivePacket idle)).map (fun t => (t.trace, t.inPkt))
    = some ([.inBusy false], none) := by decide
/-- The calls of a pass that ingests (R221): the count, the chunk, the chunk's own. -/
theorem test_ingest_calls : (nextOf (exec .ingest { idle with outQueue := [[0x23], [1]] })).map (fun t => t.trace)
    = some [.outCount (some 1), .outTake [0x23], .setLines 0x23] := by decide
/-- At 193 pending bytes the count is asked for and the chunk stays (R221, R222). -/
theorem test_ingest_gate : (nextOf (exec .ingest { idle with pending := 193, outQueue := [[0x23]] })).map
    (fun t => (t.trace, t.outQueue)) = some ([.outCount (some 1)], [[0x23]]) := by decide

/-! Control requests (V40 to V110). -/

theorem test_class_stalls : reply .classAny stopped = stalls := by decide
theorem test_reserved_stalls : reply .reservedTypeAny stopped = stalls := by decide
theorem test_start : (nextOf (exec .start stopped)).map (fun t => (t.running, t.ep0)) = some (true, .empty) := by decide
theorem test_vendor_out : reply (.vendorOutOther 3) stopped = silent := by decide
theorem test_read_config_checksum : reply (.readConfig 0x3F 2) stopped
    = saidAfter [.byteAt 126 (some 0x50), .byteAt 127 (some 0xF4)] [0x50, 0xF4] := by decide +kernel
theorem test_read_config_alias : reply (.readConfig 0xC1 0x0100) stopped
    = saidAfter [.byteAt 2 (some 0xFB), .byteAt 3 (some 0x09)] [0xFB, 0x09] := by decide +kernel
theorem test_change_speed : (nextOf (exec .changeSpeed stopped)).map (fun t => (t.speedMode, t.trace))
    = some (true, [.renumerate, .stageReply [0x01]]) := by decide
theorem test_change_master : (nextOf (exec .changeMaster stopped)).map (fun t => (t.jtagMaster, t.ep0))
    = some (false, .staged [] true) := by decide
theorem test_change_mode : (nextOf (exec .changeMode stopped)).map (fun t => (t.syncMode, t.ep0))
    = some (false, .staged [0x00] true) := by decide
theorem test_get_version : reply .getVersion stopped = said [0x31, 0x2E, 0x30] := by decide
theorem test_vendor_in_clipped : reply (.vendorInOther 5 1) stopped = said [0x36] := by decide
theorem test_vendor_in_empty : reply (.vendorInOther 5 0) stopped = said [] := by decide
theorem test_get_configuration : reply .getConfiguration { stopped with curConfig := 0xFF } = said [0xFF] := by decide
theorem test_get_interface : reply .getInterface { stopped with curConfig := 1, curAlt := 5 } = said [0x05] := by decide
theorem test_descriptor_device : reply .getDescriptorDevice stopped
    = saidAfter [.descriptor .device 0 [0x12, 0x01]] [0x12, 0x01] := by decide
theorem test_descriptor_configuration : reply .getDescriptorConfiguration stopped
    = saidAfter [.descriptor .configuration 0 [0x09, 0x02]] [0x09, 0x02] := by decide
theorem test_descriptor_string_3 : reply (.getDescriptorString 3) stopped
    = saidAfter [.descriptor .string 3 [0x04, 0x03, 0x41, 0x00]] [0x04, 0x03, 0x41, 0x00] := by decide
theorem test_descriptor_string_4 : reply (.getDescriptorString 4) stopped = stalls := by decide
theorem test_descriptor_qualifier : reply .getDescriptorDeviceQualifier stopped
    = saidAfter [.descriptor .deviceQualifier 0 [0x0A, 0x06]] [0x0A, 0x06] := by decide
theorem test_descriptor_other_speed : reply .getDescriptorOtherSpeed stopped
    = saidAfter [.descriptor .otherSpeed 0 [0x09, 0x07]] [0x09, 0x07] := by decide
theorem test_descriptor_unknown : reply (.getDescriptorOther 4) stopped = stalls := by decide
theorem test_status_device : reply .getStatusDevice stopped = said [0x00, 0x00] := by decide
theorem test_status_interface : reply .getStatusInterface stopped = said [0x00, 0x00] := by decide
theorem test_status_endpoint_two_bytes : reply (.getStatusEndpoint 0x81)
    { stopped with epStall := [(0x81, true)], params := { exampleParams with epStatusLen := .two } }
    = saidAfter [.epStallGet 0x81 true] [0x01, 0x00] := by decide
theorem test_status_endpoint_3 : reply (.getStatusEndpoint 3) stopped = stalls := by decide
theorem test_status_other : reply (.getStatusOther 3) stopped = stalls := by decide
theorem test_synch_frame : reply .synchFrame stopped = stalls := by decide
theorem test_standard_in : reply (.standardInOther 9) stopped = stalls := by decide
theorem test_set_configuration : (nextOf (exec (.setConfiguration 0xFF) stopped)).map (fun t => (t.curConfig, t.ep0))
    = some (0xFF, .empty) := by decide
theorem test_set_interface : (nextOf (exec (.setInterface 5) stopped)).map (fun t => (t.curAlt, t.curConfig))
    = some (5, 0) := by decide
theorem test_clear_halt : (nextOf (exec (.clearFeatureEndpoint 0 0x81) { stopped with epStall := [(0x81, true)] })).map
    (fun t => (t.epStall, t.trace)) = some ([(0x81, false)], [.epStallSet 0x81 false, .epToggleReset 0x81]) := by decide
theorem test_clear_halt_selector_1 : reply (.clearFeatureEndpoint 1 0x81) stopped = stalls := by decide
theorem test_set_halt_endpoint_0 : (nextOf (exec (.setFeatureEndpoint 0 0) stopped)).map (fun t => (t.epStall, t.ep0))
    = some ([(0, true)], .empty) := by decide
theorem test_set_halt_endpoint_10 : reply (.setFeatureEndpoint 0 0x0A) stopped = stalls := by decide
theorem test_clear_test_mode : reply (.clearFeatureDevice 2) stopped = silent := by decide
theorem test_clear_remote_wakeup : reply (.clearFeatureDevice 1) stopped = stalls := by decide
theorem test_set_test_mode : reply (.setFeatureDevice 2) stopped = silent := by decide
theorem test_set_remote_wakeup : reply (.setFeatureDevice 1) stopped = stalls := by decide
theorem test_clear_feature_other : reply (.clearFeatureOther 1) stopped = stalls := by decide
theorem test_set_feature_other : reply (.setFeatureOther 1) stopped = stalls := by decide
theorem test_set_address : reply .setAddress stopped = silent := by decide
theorem test_set_descriptor : reply .setDescriptor stopped = stalls := by decide
theorem test_standard_out : reply (.standardOutOther 0) stopped = stalls := by decide

/-! The loop and the events (V110 to V114). -/

/-- V110: the whole string is staged, the host gets two characters. -/
theorem test_setup_step_clips : (nextOf (exec .setupStep (asked ⟨0xC0, 0x94, 0, 0, 0, 0, 2, 0⟩ stopped))).map
    (fun t => (t.trace, t.hostCtl, t.setupPending))
    = some ([.stageReply [0x31, 0x2E, 0x30], .ackHandshake], [.data [0x31, 0x2E]], false) := by decide
/-- V113: a stall, then the handshake, then the loop goes on. -/
theorem test_step_stall : (nextOf (step (asked ⟨0x21, 0x20, 0, 0, 0, 0, 7, 0⟩ idle))).map
    (fun t => (t.trace, t.hostCtl, t.phase)) = some ([.stall, .ackHandshake], [.stall], .ingest) := by decide
/-- A request handled with neither call has an empty reply (R51). -/
theorem test_setup_step_empty : (nextOf (exec .setupStep (asked ⟨0x00, 0x09, 1, 0, 0, 0, 0, 0⟩ stopped))).map
    (fun t => (t.trace, t.hostCtl)) = some ([.ackHandshake], [.data []]) := by decide
theorem test_tick : (nextOf (exec .tick stopped)).map (fun t => (t.tickFlag, t.trace)) = some (true, []) := by decide
theorem test_setup_arrives : (nextOf (exec (.setupArrives ⟨1, 2, 3, 4, 5, 6, 7, 8⟩) stopped)).map
    (fun t => (t.setupPending, t.setupDesc.wLength)) = some (true, 0x0807) := by decide
theorem test_chunk_arrives : (nextOf (exec (.chunkArrives [9]) { stopped with outQueue := [[7]] })).map
    (fun t => (t.outQueue, t.setupPending)) = some ([[7], [9]], false) := by decide
theorem test_host_takes_in : (nextOf (exec .hostTakesIn { idle with inBusy := true, inPkt := some [0x31, 0x60] })).map
    (fun t => (t.inBusy, t.inPkt, t.hostIn)) = some (false, none, [[0x31, 0x60]]) := by decide
/-- After reset the first step can run a byte of the stream, and a request. -/
theorem test_fetch_word_byte :
    (nextOf (step (State.reset.withFetchWord 8 0x23))).map (fun t => t.trace.drop 1)
      = some [.outCount (some 1), .outTake [0x23], .setLines 0x23] := by decide
theorem test_fetch_word_setup :
    (nextOf (step (State.reset.withFetchWord 64 0x0000000000010900))).map (fun t => t.curConfig) = some 1 := by decide

/-! Witnesses: for each statement with hypotheses, a state and operands that meet them, at the boundary of each clause. -/

theorem witness_StepKeepsInvariant : idle.Inv where
  params_wf := by decide
  ring_wf := by decide
  pending_le := by decide
  queue_ok := by decide
  turns_ok := by decide
  pc_le := by decide
  inPkt_framed := by decide
  hostIn_framed := by decide
  epStall_rising := by decide
  epToggle_rising := by decide

theorem witness_DecodeOfEncodeGivesBack :
    exampleParams.wf = true
      ∧ (wellFormed exampleParams (.shr 63) = true ∧ readsAs (.shr 63) (.stream 0 true) = true
        ∧ encode exampleParams (.shr 63) = some [0xFF])
      ∧ (wellFormed exampleParams (.datr 0x80) = true ∧ readsAs (.datr 0x80) (.stream 63 false) = true
        ∧ encode exampleParams (.datr 0x80) = some [0x80])
      ∧ wellFormed exampleParams (.getStatusOther 31) = true ∧ readsAs (.getStatusOther 31) .setup = true
        ∧ encode exampleParams (.getStatusOther 31) = some [0x9F, 0, 0, 0, 0, 0, 0, 0] := by decide

/-- SET_CONFIGURATION with every unnamed byte changed. -/
theorem witness_UnnamedSetupFieldsIgnored :
    ∀ k ∈ namedFields (decodeSetup exampleParams ⟨0x00, 0x09, 0xFF, 0x12, 0, 0, 0, 0⟩),
      (⟨0x00, 0x09, 0xFF, 0x00, 7, 8, 9, 0xFF⟩ : SetupDesc).bytes[k]?
        = (⟨0x00, 0x09, 0xFF, 0x12, 0, 0, 0, 0⟩ : SetupDesc).bytes[k]? := by decide

theorem witness_StreamBytesReadByMode : (1 : Six) ≠ 0 ∧ (63 : Six) ≠ 0 := by decide

theorem witness_BbwSetsLinesOnce : idle.pendingShiftCount = 0 := by decide

theorem witness_BbrAppendsStatusByte :
    let room : State := { idle with pending := 255, lineIn := [true] }
    let full : State := { idle with pending := 256 }
    (room.pendingShiftCount = 0 ∧ room.pending < 256 ∧ room.lineIn = true :: [] ∧ 0 % 256 ≠ (room.rdCursor.toNat + 255) % 256)
      ∧ full.pendingShiftCount = 0 ∧ 256 ≤ full.pending := by decide

theorem witness_ModeSwitchSetsCount : (stopped.pendingShiftCount = 0) := by decide

theorem witness_DatwShiftsEightBitsOut : (63 : Six) ≠ 0 ∧ (shifting true 1).pendingShiftCount ≠ 0
    ∧ (shifting true 1).writeOnly = true := by decide

theorem witness_DatrShiftsEightBitsBothWays :
    let room : State := { shifting false 1 with
      pending := 255, lineIn := [true, false, true, false, true, false, true, false] ++ [true] }
    let full : State := { shifting false 63 with pending := 256 }
    (room.pendingShiftCount ≠ 0 ∧ room.writeOnly = false ∧ room.params.shiftLsbFirst = true ∧ room.pending < 256
        ∧ [true, false, true, false, true, false, true, false].length = 8 ∧ 0 % 256 ≠ (room.rdCursor.toNat + 255) % 256)
      ∧ full.pendingShiftCount ≠ 0 ∧ full.writeOnly = false ∧ 256 ≤ full.pending := by decide

theorem witness_LineCallsPerCommand :
    (∃ t, exec (.bbw 63) idle = .next t) ∧ (∃ t, exec (.bbr 63) { idle with pending := 255, lineIn := [true] } = .next t)
      ∧ (∃ t, exec (.shw 63) idle = .next t) ∧ (∃ t, exec (.shr 0) idle = .next t)
      ∧ (∃ t, exec (.datw 0xFF) (shifting true 1) = .next t)
      ∧ ∃ t, exec (.datr 0xFF) { shifting false 63 with lineIn := List.replicate 8 true } = .next t :=
  ⟨⟨_, rfl⟩, ⟨_, rfl⟩, ⟨_, rfl⟩, ⟨_, rfl⟩, ⟨_, rfl⟩, ⟨_, rfl⟩⟩

theorem witness_IngestTakesOneWholeChunk :
    let s : State := { idle with pending := 192, outQueue := [List.replicate 64 0x40, [1]] }
    (s.running = true ∧ s.outQueue = List.replicate 64 0x40 :: [[1]] ∧ s.pending < 193
        ∧ (List.replicate 64 (0x40 : Byte)).length ≤ 64)
      ∧ stopped.running = false ∧ (idle.running = true ∧ idle.outQueue = [])
      ∧ (let full : State := { idle with pending := 193, outQueue := [[1]] }
        full.running = true ∧ full.outQueue = [1] :: [] ∧ 193 ≤ full.pending) := by decide

theorem witness_ChunkRaisesPendingByAtMostItsLength :
    (∃ t, exec (decodeByte idle.pendingShiftCount idle.writeOnly 0x7F) { idle with lineIn := [true] } = .next t)
      ∧ ∃ t, exec .ingest { idle with outQueue := [[0x40, 0x80]], lineIn := [true] } = .next t :=
  ⟨⟨_, rfl⟩, ⟨_, rfl⟩⟩

theorem witness_ShiftReadSequenceReturnsBytes :
    let one : State := { idle with pending := 192, outQueue := [pseudoShiftR [0xA5]] }
    let most : State := { idle with outQueue := [pseudoShiftR (List.replicate 63 0)] }
    (one.running = true ∧ one.pendingShiftCount = 0 ∧ one.pending < 193 ∧ one.outQueue = pseudoShiftR [0xA5] :: [])
      ∧ most.running = true ∧ most.pendingShiftCount = 0 ∧ most.pending < 193
        ∧ (List.replicate 63 (0 : Byte)).length ≤ 63
        ∧ most.outQueue = pseudoShiftR (List.replicate 63 0) :: [] := by decide

theorem witness_ShiftWriteSequenceSendsBits :
    let one : State := { idle with pending := 192, outQueue := [pseudoShiftW [0xA5]] }
    let most : State := { idle with outQueue := [pseudoShiftW (List.replicate 63 0)] }
    (one.running = true ∧ one.pendingShiftCount = 0 ∧ one.pending < 193 ∧ one.outQueue = pseudoShiftW [0xA5] :: [])
      ∧ most.running = true ∧ most.pendingShiftCount = 0 ∧ most.pending < 193
        ∧ (List.replicate 63 (0 : Byte)).length ≤ 63
        ∧ most.outQueue = pseudoShiftW (List.replicate 63 0) :: [] := by decide

theorem witness_WriteOnlyUnobservableInBitBang :
    let s : State := { idle with pending := 192, outQueue := [[0x80, 0x40]] }
    (s.running = true ∧ s.pendingShiftCount = 0 ∧ s.pending < 193 ∧ s.outQueue = (0x80 :: [0x40]) :: [])
      ∧ stopped.pendingShiftCount = 0 := by decide

theorem witness_DataPacketSendsOldestBytes :
    (∀ n ∈ [1, 62, 63, 256], let s : State := { idle with pending := n }
      s.running = true ∧ s.inBusy = false ∧ 0 < s.pending) := by decide

theorem witness_KeepaliveSendsBareHeader :
    let s : State := { idle with tickFlag := true }
    s.running = true ∧ s.inBusy = false ∧ s.pending = 0 ∧ s.tickFlag = true := by decide

theorem witness_NothingToEmitChangesNothing :
    ∀ s ∈ [{ idle with phase := .emit }, { stopped with phase := .emit }],
      s.inBusy = false ∧ s.pending = 0 ∧ s.tickFlag = false ∧ s.phase = .emit ∧ s.turns = [] := by decide

theorem witness_RingIsFirstInFirstOut :
    ∃ t, Host.Core.run Sys2Proof.core 3 { idle with outQueue := [[0x40]], lineIn := [true] } = .next t
      ∧ t.trace = [.outCount (some 1), .outTake [0x40], .setLines 0, .getState true, .inBusy false,
          .inSubmit [0x31, 0x60, 0x03]]
      ∧ observable t.trace = [.setLines 0, .getState true, .inSubmit [0x31, 0x60, 0x03]] := ⟨_, rfl, rfl, rfl⟩

theorem witness_EveryPacketIsFramed :
    ∃ t, step { idle with phase := .emit, tickFlag := true } = .next t
      ∧ t.trace = ({ idle with phase := .emit, tickFlag := true } : State).trace ++ [.inBusy false, .inSubmit [0x31, 0x60]]
      ∧ .inSubmit [0x31, 0x60] ∈ [Call.inBusy false, Call.inSubmit [0x31, 0x60]]
      ∧ ([0x31, 0x60] : List Byte).length = 2 := ⟨_, rfl, rfl, by simp, rfl⟩

theorem witness_IdleKeepaliveAtMostOncePerTick :
    (∃ t, step { idle with phase := .emit, tickFlag := true } = .next t
      ∧ t.trace = [] ++ [.inBusy false, .inSubmit [0x31, 0x60]])
      ∧ ∃ t, step { idle with turns := [.tick] } = .next t ∧ t.tickFlag = true ∧ t.trace = [] ++ [] :=
  ⟨⟨_, rfl, rfl⟩, ⟨_, rfl, rfl, rfl⟩⟩

theorem witness_ShortTransferFollowsBurst :
    let s : State := { idle with pending := 62 }
    let u : State := { idle with pending := 1, params := { exampleParams with armSetsTick := false } }
    (s.running = true ∧ s.inBusy = false ∧ 0 < s.pending ∧ s.pending ≤ 62 ∧ s.tickFlag = false
        ∧ s.params.armSetsTick = true)
      ∧ u.running = true ∧ u.inBusy = false ∧ 0 < u.pending ∧ u.pending ≤ 62 ∧ u.tickFlag = false
        ∧ u.params.armSetsTick = false := by decide

theorem witness_StepRunsTheDecodedInstruction :
    let event : State := { idle with turns := [.tick] }
    let waits : State := { idle with turns := [.hostTakesIn] }
    let core : State := { idle with turns := [.core, .tick] }
    let chunk : State := { idle with pending := 192, outQueue := [[0x40]] }
    let inside : State := { idle with outChunk := [0x40], pc := 0 }
    (event.turns = .tick :: [] ∧ turnEnabled event .tick = true ∧ turnEvent .tick = some .tick)
      ∧ idle.turns = [] ∧ (waits.turns = .hostTakesIn :: [] ∧ turnEnabled waits .hostTakesIn = false)
      ∧ core.turns = .core :: [.tick]
      ∧ (asked ⟨0xC0, 0x94, 0, 0, 0, 0, 2, 0⟩ idle).setupPending = true
      ∧ (chunk.running = true ∧ chunk.outQueue = [0x40] :: [] ∧ chunk.pending < 193)
      ∧ inside.outChunk[inside.pc]? = some 0x40 := by decide

theorem witness_QuiescentIterationChangesNothing :
    let full : State := { idle with pending := 193, inBusy := true, outQueue := [[1]] }
    (stopped.turns = [] ∧ stopped.phase = .setup ∧ stopped.setupPending = false ∧ stopped.running = false)
      ∧ (idle.turns = [] ∧ idle.phase = .setup ∧ idle.setupPending = false ∧ idle.outQueue = []
        ∧ idle.pending = 0 ∧ idle.tickFlag = false)
      ∧ full.turns = [] ∧ full.phase = .setup ∧ full.setupPending = false ∧ 193 ≤ full.pending
        ∧ full.inBusy = true := by decide

theorem witness_StepStopsOnlyOnRingOverflow :
    step { idle with phase := .ingest, pending := 192, outQueue := [List.replicate 65 0x40] } = .fault .ringOverflow := by
  rfl

theorem witness_SetupStepHandlesOneRequest :
    (asked ⟨0x21, 0, 0, 0, 0, 0, 0, 0⟩ stopped).setupPending = true ∧ stopped.setupPending = false := by decide

theorem witness_StoppedEngineDoesNothing :
    let s : State := { stopped with outQueue := [[0x40]], pending := 1, tickFlag := true }
    s.running = false := by decide

theorem witness_TickFlagSetByTickClearedByKeepalive :
    ∃ t, exec .keepalivePacket { idle with tickFlag := true } = .next t
      ∧ ({ idle with tickFlag := true } : State).tickFlag = true ∧ t.tickFlag = false := ⟨_, rfl, rfl, rfl⟩

theorem witness_SetupArrivalLatchesDescriptor :
    let s : State := asked ⟨0, 9, 1, 0, 0, 0, 0, 0⟩ { idle with turns := [.setupArrives ⟨0, 9, 2, 0, 0, 0, 0, 0⟩] }
    stopped.setupPending = false ∧ s.setupPending = true
      ∧ s.turns = .setupArrives ⟨0, 9, 2, 0, 0, 0, 0, 0⟩ :: [] := by decide

theorem witness_TransportDeliversChunksAndPackets :
    let s : State := { idle with inBusy := true, inPkt := some [0x31, 0x60] }
    (s.inBusy = true ∧ s.inPkt = some [0x31, 0x60]) ∧ ([] : List Byte).length ≤ s.params.maxChunk
      ∧ (List.replicate 64 (0 : Byte)).length ≤ s.params.maxChunk := by decide

theorem witness_OutsideTheRulesOfInstructions :
    (asked ⟨0, 9, 1, 0, 0, 0, 0, 0⟩ idle).setupPending = true ∧ idle.inBusy = false
      ∧ (shifting true 1).pendingShiftCount ≠ 0 ∧ idle.pendingShiftCount = 0 ∧ (shifting false 63).writeOnly = false
      ∧ (shifting true 63).writeOnly = true
      ∧ (let s : State := { idle with inBusy := true }; s.inBusy = true ∧ s.inPkt = none) := by decide

/-! The descriptors that meet the hypotheses of the decoding clauses. -/

theorem witness_GetConfigurationAndInterfaceReply :
    let d : SetupDesc := ⟨0x9F, 0x08, 0xFF, 0xFF, 0xFF, 0xFF, 0xFF, 0xFF⟩
    let e : SetupDesc := ⟨0x81, 0x0A, 0, 0, 0, 0, 1, 0⟩
    (d.reqType = 0 ∧ d.dirIn = true ∧ d.bRequest = 0x08) ∧ e.reqType = 0 ∧ e.dirIn = true ∧ e.bRequest = 0x0A := by decide

theorem witness_DescriptorsStagedWhole :
    (∀ type ∈ [(0x01 : Byte), 0x06, 0x02, 0x07], let d : SetupDesc := ⟨0x80, 0x06, 0, type, 0, 0, 0xFF, 0⟩
      d.reqType = 0 ∧ d.dirIn = true ∧ d.bRequest = 0x06 ∧ d.wValueH = type)
      ∧ exampleDesc = (if ({ stopped with speedMode := true } : State).speedMode then stopped.desc.alternate
        else stopped.desc.normal) := by decide

theorem witness_StringIndexOutOfRangeStalls :
    let d : SetupDesc := ⟨0x80, 0x06, 3, 3, 9, 4, 0xFF, 0⟩
    (d.reqType = 0 ∧ d.dirIn = true ∧ d.bRequest = 0x06 ∧ d.wValueH = 0x03)
      ∧ ((3 : Byte).toNat < stopped.params.numStrings
        ∧ (if stopped.speedMode then stopped.desc.alternate else stopped.desc.normal).strings[(3 : Byte).toNat]?
          = some [0x04, 0x03, 0x41, 0x00])
      ∧ stopped.params.numStrings ≤ (4 : Byte).toNat := by decide

theorem witness_DeviceAndInterfaceStatusIsZero :
    (∀ r ∈ [(0x80 : Byte), 0x81], let d : SetupDesc := ⟨r, 0x00, 0, 0, 0, 0, 2, 0⟩
      d.reqType = 0 ∧ d.dirIn = true ∧ d.bRequest = 0x00 ∧ (d.recipient = 0 ∨ d.recipient = 1)) := by decide

theorem witness_EndpointStatusReply :
    let d : SetupDesc := ⟨0x82, 0x00, 0, 0, 0x81, 0, 2, 0⟩
    (d.reqType = 0 ∧ d.dirIn = true ∧ d.bRequest = 0x00 ∧ d.recipient = 2)
      ∧ (∀ a ∈ [(0x00 : Byte), 0x08, 0x81, 0x88], a.toNat % 128 ∈ [0, 1, 2, 4, 6, 8])
      ∧ ∀ a ∈ [(0x03 : Byte), 0x0A, 0x7F, 0xFF], a.toNat % 128 ∉ [0, 1, 2, 4, 6, 8] := by decide

theorem witness_UnsupportedRequestsStall :
    (∀ d ∈ [(⟨0x20, 0, 0, 0, 0, 0, 0, 0⟩ : SetupDesc), ⟨0xBF, 0xFF, 0, 0, 0, 0, 0, 0⟩], d.reqType = 1)
      ∧ (⟨0xE0, 0, 0, 0, 0, 0, 0, 0⟩ : SetupDesc).reqType = 3
      ∧ (∀ d ∈ [(⟨0x80, 0x06, 0, 0x00, 0, 0, 0, 0⟩ : SetupDesc), ⟨0x80, 0x06, 0, 0x08, 0, 0, 0, 0⟩],
          d.reqType = 0 ∧ d.dirIn = true ∧ d.bRequest = 0x06 ∧ d.wValueH ∉ descriptorTypes)
      ∧ (∀ d ∈ [(⟨0x83, 0, 0, 0, 0, 0, 0, 0⟩ : SetupDesc), ⟨0x9F, 0, 0, 0, 0, 0, 0, 0⟩],
          d.reqType = 0 ∧ d.dirIn = true ∧ d.bRequest = 0x00 ∧ 3 ≤ d.recipient.toNat)
      ∧ (∀ d ∈ [(⟨0x82, 0x0C, 0, 0, 0x82, 0, 2, 0⟩ : SetupDesc)],
          d.reqType = 0 ∧ d.dirIn = true ∧ d.bRequest = 0x0C)
      ∧ (∀ d ∈ [(⟨0x80, 0x01, 0, 0, 0, 0, 0, 0⟩ : SetupDesc), ⟨0x80, 0xFF, 0, 0, 0, 0, 0, 0⟩],
          d.reqType = 0 ∧ d.dirIn = true ∧ d.bRequest ∉ standardInCodes)
      ∧ (∀ d ∈ [(⟨0x01, 0x01, 0, 0, 0, 0, 0, 0⟩ : SetupDesc), ⟨0x1F, 0x03, 0, 0, 0, 0, 0, 0⟩],
          d.reqType = 0 ∧ d.dirIn = false ∧ (d.bRequest = 0x01 ∨ d.bRequest = 0x03) ∧ d.recipient ≠ 0 ∧ d.recipient ≠ 2)
      ∧ (∀ d ∈ [(⟨0x00, 0x07, 0, 1, 0, 0, 0x12, 0⟩ : SetupDesc)],
          d.reqType = 0 ∧ d.dirIn = false ∧ d.bRequest = 0x07)
      ∧ ∀ d ∈ [(⟨0x00, 0x00, 0, 0, 0, 0, 0, 0⟩ : SetupDesc), ⟨0x00, 0x0C, 0, 0, 0, 0, 0, 0⟩],
          d.reqType = 0 ∧ d.dirIn = false ∧ d.bRequest ∉ standardOutCodes := by decide

theorem witness_SetConfigurationAndInterfaceStore :
    (∀ c ∈ [(0x09 : Byte), 0x0B], let d : SetupDesc := ⟨0x1F, c, 0xFF, 0x12, 0, 0, 0, 0⟩
      d.reqType = 0 ∧ d.dirIn = false ∧ d.bRequest = c) := by decide

theorem witness_EndpointHaltFeature :
    (∀ c ∈ [(0x01 : Byte), 0x03], let d : SetupDesc := ⟨0x02, c, 0, 0, 0x81, 0, 0, 0⟩
      d.reqType = 0 ∧ d.dirIn = false ∧ d.recipient = 2 ∧ d.bRequest = c)
      ∧ ((0 : Byte) = 0 ∧ (0x88 : Byte).toNat % 128 ∈ [0, 1, 2, 4, 6, 8])
      ∧ ¬((1 : Byte) = 0 ∧ (0x81 : Byte).toNat % 128 ∈ [0, 1, 2, 4, 6, 8])
      ∧ ¬((0 : Byte) = 0 ∧ (0x03 : Byte).toNat % 128 ∈ [0, 1, 2, 4, 6, 8]) := by decide

theorem witness_DeviceFeatureAndSetAddress :
    (∀ c ∈ [(0x01 : Byte), 0x03, 0x05], let d : SetupDesc := ⟨0x00, c, 2, 0, 0, 1, 0, 0⟩
      d.reqType = 0 ∧ d.dirIn = false ∧ d.recipient = 0 ∧ d.bRequest = c)
      ∧ (0x02 : Byte) = 0x02 ∧ (0x01 : Byte) ≠ 0x02 := by decide

theorem witness_HaltFeatureShowsInStatus : plausible 0x81 = true ∧ plausible 0x00 = true := by decide

theorem witness_StartSetsRunning :
    (∀ c ∈ [(0x00 : Byte), 0x90], let d : SetupDesc := ⟨0x40, c, 0, 0, 0, 0, 0, 0⟩
      d.reqType = 2 ∧ d.dirIn = false) := by decide

theorem witness_ReadConfigRepliesTwoBytes :
    let d : SetupDesc := ⟨0xC0, 0x90, 0, 0, 0xFF, 0, 0, 1⟩
    (d.reqType = 2 ∧ d.dirIn = true ∧ d.bRequest = exampleParams.vrReadConfig)
      ∧ (126 = 2 * ((0xFF : Byte).toNat % 64) ∧ stopped.configBlock.toList[126]? = some 0x50
        ∧ stopped.configBlock.toList[126 + 1]? = some 0xF4) := by decide +kernel

theorem witness_ChangeSpeedTogglesAndRenumerates :
    let d : SetupDesc := ⟨0xC0, 0x91, 0, 0, 0, 0, 1, 0⟩
    exampleParams.wf = true ∧ d.reqType = 2 ∧ d.dirIn = true ∧ d.bRequest = exampleParams.vrChangeSpeed := by decide

theorem witness_MasterAndModeToggle :
    let d : SetupDesc := ⟨0xC0, 0x92, 0, 0, 0, 0, 0, 0⟩
    let e : SetupDesc := ⟨0xC0, 0x93, 0, 0, 0, 0, 1, 0⟩
    exampleParams.wf = true ∧ (d.reqType = 2 ∧ d.dirIn = true ∧ d.bRequest = exampleParams.vrChangeMaster)
      ∧ e.reqType = 2 ∧ e.dirIn = true ∧ e.bRequest = exampleParams.vrChangeMode := by decide

theorem witness_VersionAndPlaceholderReply :
    let d : SetupDesc := ⟨0xC0, 0x94, 0, 0, 0, 0, 0x40, 0⟩
    let e : SetupDesc := ⟨0xC0, 0x00, 0, 0, 0, 0, 2, 0⟩
    exampleParams.wf = true ∧ (d.reqType = 2 ∧ d.dirIn = true ∧ d.bRequest = exampleParams.vrGetVersion)
      ∧ e.reqType = 2 ∧ e.dirIn = true ∧ e.bRequest ∉ exampleParams.vendorInCodes := by decide

theorem witness_RunningSetOnlyByStart :
    ∃ t, step (asked ⟨0x40, 0, 0, 0, 0, 0, 0, 0⟩ stopped) = .next t
      ∧ t.running ≠ (asked ⟨0x40, 0, 0, 0, 0, 0, 0, 0⟩ stopped).running := ⟨_, rfl, by decide⟩

theorem witness_StalledRequestWritesNothing :
    isRequest (.setFeatureEndpoint 0 3) = true ∧ stopped.ep0 = .empty
      ∧ ∃ t, exec (.setFeatureEndpoint 0 3) stopped = .next t ∧ t.ep0 = .stalled := ⟨by decide, by decide, _, rfl, rfl⟩

theorem witness_VendorRequestsNeverStall :
    let s : State := asked ⟨0xC0, 0xFF, 0, 0, 0, 0, 2, 0⟩ stopped
    let renumerates : State := asked ⟨0xC0, 0x91, 0, 0, 0, 0, 1, 0⟩ stopped
    (s.setupPending = true ∧ s.setupDesc.reqType = 2)
      ∧ renumerates.setupPending = true ∧ renumerates.setupDesc.reqType = 2 := by decide

theorem witness_FixedDataNeverChanges : ∃ t, step idle = .next t := ⟨_, rfl⟩

theorem witness_ModeStatePersists :
    (∃ t, step (asked ⟨0xC0, 0x91, 0, 0, 0, 0, 1, 0⟩ (shifting true 5)) = .next t
      ∧ (nextTurn (asked ⟨0xC0, 0x91, 0, 0, 0, 0, 1, 0⟩ (shifting true 5))).1 ≠ .ingest)
      ∧ (∃ t, step { shifting true 5 with phase := .ingest, pending := 193, outQueue := [[1]] } = .next t)
      ∧ ingestEnabled { shifting true 5 with phase := .ingest, pending := 193, outQueue := [[1]] } = false
      ∧ (let s : State := { shifting true 3 with pending := 192, outQueue := [[1, 2, 3]] }
        s.running = true ∧ s.outQueue = [1, 2, 3] :: [] ∧ s.pending < 193
          ∧ ([1, 2, 3] : List Byte).length ≤ s.pendingShiftCount.toNat) :=
  ⟨⟨_, rfl, by decide⟩, ⟨_, rfl⟩, by decide, by decide⟩

theorem witness_ControlLeavesDataPlaneAlone :
    ∃ t, exec .setupStep (asked ⟨0x40, 0, 0, 0, 0, 0, 0, 0⟩ idle) = .next t
      ∧ (asked ⟨0x40, 0, 0, 0, 0, 0, 0, 0⟩ idle).running = true := ⟨_, rfl, rfl⟩

theorem witness_DataPlaneLeavesControlAlone :
    (∃ t, exec .ingest { idle with outQueue := [[0x01]] } = .next t)
      ∧ (∃ t, exec .dataPacket { idle with pending := 1, ring := [(0, 2)] } = .next t)
      ∧ ∃ t, exec .keepalivePacket { idle with tickFlag := true } = .next t := ⟨⟨_, rfl⟩, ⟨_, rfl⟩, ⟨_, rfl⟩⟩

/-- Strings of 102 bytes together are the most that fit. -/
theorem witness_ChecksumStoredInBlock : exampleParams.stringsFit = true
    ∧ ({ exampleParams with cfgStr1 := List.replicate 60 1 } : Params).stringsFit = true := by decide

theorem witness_BlockLayoutAndStringTable :
    cfgBuild exampleParams = some (cfgBlock exampleParams) ∧ 76 = 20 + exampleParams.cfgStr1.length
      + exampleParams.cfgStr2.length + exampleParams.cfgStr3.length ∧ 76 + 4 ≤ 125 := ⟨rfl, by decide⟩

end Sys2Proof.Machine.Test
end

section
/-! A row of the opcode table tests the fields of a descriptor (30_encoding.md R95, R96, R105): the 64-bit test of a
row is a test of each byte, and the test of the first byte is one of direction, type and recipient. -/
namespace Sys2Proof

theorem SetupDesc.toBits_ofBits (w : BitVec 64) : (SetupDesc.ofBits w).toBits = w := by
  simp only [SetupDesc.ofBits, SetupDesc.toBits]
  repeat rw [BitVec.extractLsb'_append_extractLsb'_eq_extractLsb' (by rfl)]
  exact BitVec.extractLsb'_eq_self

theorem SetupDesc.ofBits_toBits (d : SetupDesc) : SetupDesc.ofBits d.toBits = d := by
  simp only [SetupDesc.ofBits, SetupDesc.toBits, BitVec.extractLsb'_append_eq_ite]
  simp

theorem SetupDesc.ofBits_inj {v w : BitVec 64} : SetupDesc.ofBits v = SetupDesc.ofBits w ↔ v = w :=
  (Function.LeftInverse.injective SetupDesc.toBits_ofBits).eq_iff

/-- The test of a row, byte by byte. -/
@[simp] theorem SetupDesc.toBits_and_eq_iff (d : SetupDesc) (m c : BitVec 64) :
    d.toBits &&& m = c ↔
      d.bmRequestType &&& m.extractLsb' 0 8 = c.extractLsb' 0 8 ∧ d.bRequest &&& m.extractLsb' 8 8 = c.extractLsb' 8 8
        ∧ d.wValueL &&& m.extractLsb' 16 8 = c.extractLsb' 16 8 ∧ d.wValueH &&& m.extractLsb' 24 8 = c.extractLsb' 24 8
        ∧ d.wIndexL &&& m.extractLsb' 32 8 = c.extractLsb' 32 8 ∧ d.wIndexH &&& m.extractLsb' 40 8 = c.extractLsb' 40 8
        ∧ d.wLengthL &&& m.extractLsb' 48 8 = c.extractLsb' 48 8
        ∧ d.wLengthH &&& m.extractLsb' 56 8 = c.extractLsb' 56 8 := by
  conv_rhs => rw [← SetupDesc.ofBits_toBits d]
  rw [← SetupDesc.ofBits_inj]
  simp only [SetupDesc.ofBits, SetupDesc.mk.injEq, BitVec.extractLsb'_and]

/-- A request-type byte is its three fields (R96). -/
theorem requestType_fields (b : Byte) : requestType (b.getLsbD 7) (b.extractLsb' 5 2) (b.extractLsb' 0 5) = b := by
  revert b; decide

/-- The first byte compared, field by field. -/
theorem SetupDesc.bmRequestType_eq_iff (d : SetupDesc) (c : Byte) :
    d.bmRequestType = c ↔
      d.dirIn = c.getLsbD 7 ∧ d.reqType = c.extractLsb' 5 2 ∧ d.recipient = c.extractLsb' 0 5 := by
  constructor
  · rintro rfl
    exact ⟨rfl, rfl, rfl⟩
  · rintro ⟨hdir, htype, hrecipient⟩
    rw [← requestType_fields d.bmRequestType, ← requestType_fields c, ← hdir, ← htype, ← hrecipient]
    rfl

/-- The first byte masked and compared, field by field. -/
@[simp] theorem SetupDesc.bmRequestType_and_eq_iff (d : SetupDesc) (m c : Byte) :
    d.bmRequestType &&& m = c ↔ (d.dirIn && m.getLsbD 7) = c.getLsbD 7
      ∧ d.reqType &&& m.extractLsb' 5 2 = c.extractLsb' 5 2
      ∧ d.recipient &&& m.extractLsb' 0 5 = c.extractLsb' 0 5 := by
  have h := SetupDesc.bmRequestType_eq_iff { d with bmRequestType := d.bmRequestType &&& m } c
  simpa only [SetupDesc.dirIn, SetupDesc.reqType, SetupDesc.recipient, BitVec.getLsbD_and, BitVec.extractLsb'_and] using h

/-- A parameter's code stands in the request byte of a row's match (R112). -/
@[simp] theorem codeMatch_bRequest (base : BitVec 64) (code : Byte) :
    (codeMatch base code).extractLsb' 8 8 = base.extractLsb' 8 8 ||| code := by
  ext i hi
  simp [codeMatch, show 8 + i < 64 by omega, hi]

/-- The code changes no other byte of the match. -/
@[simp] theorem codeMatch_otherByte (base : BitVec 64) (code : Byte) {k : Nat} (h : k = 0 ∨ 16 ≤ k) :
    (codeMatch base code).extractLsb' k 8 = base.extractLsb' k 8 := by
  ext i hi
  have hcode : 8 ≤ k + i → code.getLsbD (k + i - 8) = false := fun h8 => BitVec.getLsbD_of_ge _ _ (by omega)
  simp +contextual [codeMatch, hcode]

@[simp] theorem byte_and_allOnes (b : Byte) : b &&& 255#8 = b := BitVec.and_allOnes

@[simp] theorem recipient_and_allOnes (r : BitVec 5) : r &&& 31#5 = r := BitVec.and_allOnes

end Sys2Proof
end

section
/-! The first matching row of each part of the opcode table is the row of the instruction decoded (R105, R136). -/
namespace Sys2Proof

@[simp] theorem firstMatch_nil (w : BitVec 64) : firstMatch [] w = none := rfl

@[simp] theorem firstMatch_cons (m c : BitVec 64) (name : String) (rows : List SetupRow) (w : BitVec 64) :
    firstMatch ((m, c, name) :: rows) w = if w &&& m = c then some name else firstMatch rows w := by
  by_cases h : w &&& m = c <;> simp [firstMatch, h]

theorem firstMatch_append (rows rows' : List SetupRow) (w : BitVec 64) :
    firstMatch (rows ++ rows') w = (firstMatch rows w).or (firstMatch rows' w) := by
  simp [firstMatch, List.find?_append, Option.map_or]

variable {p : Params} {d : SetupDesc}

theorem firstMatch_vendorRows_class (htype : d.reqType = 1) :
    firstMatch (setupRowsVendor p) d.toBits = some "CLASS_ANY" := by
  simp [setupRowsVendor, htype]

theorem firstMatch_vendorRows_reserved (htype : d.reqType = 3) :
    firstMatch (setupRowsVendor p) d.toBits = some "RESERVED_TYPE_ANY" := by
  simp [setupRowsVendor, htype]

theorem firstMatch_vendorRows_standard (htype : d.reqType = 0) :
    firstMatch (setupRowsVendor p) d.toBits = none := by
  simp [setupRowsVendor, htype]

theorem firstMatch_vendorRows_vendor (htype : d.reqType = 2) :
    firstMatch (setupRowsVendor p) d.toBits = some (mnemonic (decodeVendor p d)) := by
  simp only [decodeVendor, apply_ite mnemonic, apply_ite some]
  cases hdir : d.dirIn <;> simp [setupRowsVendor, mnemonic, htype, hdir]

theorem firstMatch_inRows_out (hdir : d.dirIn = false) : firstMatch setupRowsIn d.toBits = none := by
  simp [setupRowsIn, SetupDesc.bmRequestType_eq_iff, hdir]

/-- The rows of GET_DESCRIPTOR and GET_STATUS are told apart by `wValueH` and by the recipient. -/
theorem firstMatch_inRows (htype : d.reqType = 0) (hdir : d.dirIn = true) :
    firstMatch setupRowsIn d.toBits = some (mnemonic (decodeStandardIn d)) := by
  simp only [decodeStandardIn, decodeGetDescriptor, decodeGetStatus, apply_ite mnemonic, apply_ite some]
  by_cases hdescriptor : d.bRequest = 6#8
  · simp [setupRowsIn, mnemonic, htype, hdir, hdescriptor]
  by_cases hstatus : d.bRequest = 0#8
  · simp [setupRowsIn, mnemonic, SetupDesc.bmRequestType_eq_iff, htype, hdir, hstatus]
  · simp [setupRowsIn, mnemonic, SetupDesc.bmRequestType_eq_iff, htype, hdir, hdescriptor, hstatus]

/-- The rows of CLEAR_FEATURE and SET_FEATURE are told apart by the recipient. -/
theorem firstMatch_outRows (htype : d.reqType = 0) (hdir : d.dirIn = false) :
    firstMatch setupRowsOut d.toBits = some (mnemonic (decodeStandardOut d)) := by
  simp only [decodeStandardOut, decodeClearFeature, decodeSetFeature, apply_ite mnemonic, apply_ite some]
  by_cases hclear : d.bRequest = 1#8
  · simp [setupRowsOut, mnemonic, SetupDesc.bmRequestType_eq_iff, htype, hdir, hclear]
  by_cases hset : d.bRequest = 3#8
  · simp [setupRowsOut, mnemonic, SetupDesc.bmRequestType_eq_iff, htype, hdir, hset]
  · simp [setupRowsOut, mnemonic, SetupDesc.bmRequestType_eq_iff, htype, hdir, hclear, hset]

theorem reqType_cases (t : BitVec 2) : t = 0 ∨ t = 1 ∨ t = 2 ∨ t = 3 := by
  revert t; decide

/-- Settles O5, by the type field, then the direction: each part of the table holds the rows of one sub-decoder. -/
theorem decoderFollowsOpcodeTable : Obligations.DecoderFollowsOpcodeTable := by
  unfold Obligations.DecoderFollowsOpcodeTable
  intro p d
  simp only [setupRows, firstMatch_append, decodeSetup]
  rcases reqType_cases d.reqType with htype | htype | htype | htype
  · rw [firstMatch_vendorRows_standard htype]
    cases hdir : d.dirIn
    · simp [firstMatch_inRows_out hdir, firstMatch_outRows htype hdir, htype]
    · simp [firstMatch_inRows htype hdir, htype]
  · simp [firstMatch_vendorRows_class htype, htype, mnemonic]
  · simp [firstMatch_vendorRows_vendor htype, htype]
  · simp [firstMatch_vendorRows_reserved htype, htype, mnemonic]

end Sys2Proof
end

section
/-! A setup byte that the matching rule does not name changes nothing (R108): each decoder reads the request type, the
code, and the bytes named. -/
namespace Sys2Proof

open Machine

/-- Two descriptors hold the same bytes at some places. -/
def AgreeOn (places : List Nat) (d e : SetupDesc) : Prop := ∀ k ∈ places, e.bytes[k]? = d.bytes[k]?

variable {p : Params} {d e : SetupDesc} {places : List Nat}

theorem AgreeOn.wValueL (h : AgreeOn places d e) (hk : 2 ∈ places) : e.wValueL = d.wValueL :=
  Option.some.inj (h 2 hk)

theorem AgreeOn.wValueH (h : AgreeOn places d e) (hk : 3 ∈ places) : e.wValueH = d.wValueH :=
  Option.some.inj (h 3 hk)

theorem AgreeOn.wIndexL (h : AgreeOn places d e) (hk : 4 ∈ places) : e.wIndexL = d.wIndexL :=
  Option.some.inj (h 4 hk)

theorem AgreeOn.wLength (h : AgreeOn places d e) (hlow : 6 ∈ places) (hhigh : 7 ∈ places) : e.wLength = d.wLength :=
  congrArg₂ (· ++ ·) (Option.some.inj (h 7 hhigh)) (Option.some.inj (h 6 hlow))

theorem decodeVendor_of_agreeOn (hdir : e.dirIn = d.dirIn) (hcode : e.bRequest = d.bRequest)
    (h : AgreeOn (namedFields (decodeVendor p d)) d e) : decodeVendor p e = decodeVendor p d := by
  revert h
  simp only [decodeVendor, hdir, hcode]
  split_ifs <;> intro h
  · rw [h.wIndexL (.head _), h.wLength (.tail _ (.head _)) (.tail _ (.tail _ (.head _)))]
  · rfl
  · rfl
  · rfl
  · rfl
  · rw [h.wLength (.head _) (.tail _ (.head _))]
  · rfl
  · rfl

/-- Every row of GET_DESCRIPTOR names the type byte. -/
theorem wValueH_named_decodeGetDescriptor : 3 ∈ namedFields (decodeGetDescriptor d) := by
  unfold decodeGetDescriptor
  split_ifs
  · exact .head _
  · exact .head _
  · exact .tail _ (.head _)
  · exact .head _
  · exact .head _
  · exact .head _

theorem decodeGetDescriptor_of_agreeOn (h : AgreeOn (namedFields (decodeGetDescriptor d)) d e) :
    decodeGetDescriptor e = decodeGetDescriptor d := by
  have htype : e.wValueH = d.wValueH := h.wValueH wValueH_named_decodeGetDescriptor
  revert h
  simp only [decodeGetDescriptor, htype]
  split_ifs <;> intro h
  · rfl
  · rfl
  · rw [h.wValueL (.head _)]
  · rfl
  · rfl
  · rfl

theorem decodeGetStatus_of_agreeOn (hrecipient : e.recipient = d.recipient)
    (h : AgreeOn (namedFields (decodeGetStatus d)) d e) : decodeGetStatus e = decodeGetStatus d := by
  revert h
  simp only [decodeGetStatus, hrecipient]
  split_ifs <;> intro h
  · rfl
  · rfl
  · rw [h.wIndexL (.head _)]
  · rfl

theorem decodeClearFeature_of_agreeOn (hrecipient : e.recipient = d.recipient)
    (h : AgreeOn (namedFields (decodeClearFeature d)) d e) : decodeClearFeature e = decodeClearFeature d := by
  revert h
  simp only [decodeClearFeature, hrecipient]
  split_ifs <;> intro h
  · rw [h.wValueL (.head _), h.wIndexL (.tail _ (.head _))]
  · rw [h.wValueL (.head _)]
  · rfl

theorem decodeSetFeature_of_agreeOn (hrecipient : e.recipient = d.recipient)
    (h : AgreeOn (namedFields (decodeSetFeature d)) d e) : decodeSetFeature e = decodeSetFeature d := by
  revert h
  simp only [decodeSetFeature, hrecipient]
  split_ifs <;> intro h
  · rw [h.wValueL (.head _), h.wIndexL (.tail _ (.head _))]
  · rw [h.wValueL (.head _)]
  · rfl

theorem decodeStandardIn_of_agreeOn (hrecipient : e.recipient = d.recipient) (hcode : e.bRequest = d.bRequest)
    (h : AgreeOn (namedFields (decodeStandardIn d)) d e) : decodeStandardIn e = decodeStandardIn d := by
  revert h
  simp only [decodeStandardIn, hcode]
  split_ifs <;> intro h
  · rfl
  · rfl
  · exact decodeGetDescriptor_of_agreeOn h
  · exact decodeGetStatus_of_agreeOn hrecipient h
  · rfl
  · rfl

theorem decodeStandardOut_of_agreeOn (hrecipient : e.recipient = d.recipient) (hcode : e.bRequest = d.bRequest)
    (h : AgreeOn (namedFields (decodeStandardOut d)) d e) : decodeStandardOut e = decodeStandardOut d := by
  revert h
  simp only [decodeStandardOut, hcode]
  split_ifs <;> intro h
  · rw [h.wValueL (.head _)]
  · rw [h.wValueL (.head _)]
  · exact decodeClearFeature_of_agreeOn hrecipient h
  · exact decodeSetFeature_of_agreeOn hrecipient h
  · rfl
  · rfl
  · rfl

theorem decodeSetup_of_agreeOn (hfirst : e.bmRequestType = d.bmRequestType) (hcode : e.bRequest = d.bRequest)
    (h : AgreeOn (namedFields (decodeSetup p d)) d e) : decodeSetup p e = decodeSetup p d := by
  have hdir : e.dirIn = d.dirIn := congrArg (BitVec.getLsbD · 7) hfirst
  have htype : e.reqType = d.reqType := congrArg (BitVec.extractLsb' 5 2) hfirst
  have hrecipient : e.recipient = d.recipient := congrArg (BitVec.extractLsb' 0 5) hfirst
  revert h
  simp only [decodeSetup, htype, hdir]
  split_ifs <;> intro h
  · rfl
  · rfl
  · exact decodeVendor_of_agreeOn hdir hcode h
  · exact decodeStandardIn_of_agreeOn hrecipient hcode h
  · exact decodeStandardOut_of_agreeOn hrecipient hcode h

/-- The direction bit is no part of the endpoint number (R139). -/
theorem endpointNumber_xor_dir (a : Byte) : endpointNumber (a ^^^ 0x80) = endpointNumber a := by
  have h : (a ^^^ 0x80) &&& 0x7F = a &&& 0x7F := by revert a; decide
  rw [endpointNumber, h, endpointNumber]

/-- Settles O6: decoder by decoder, and the direction bit is masked off before the plausibility test. -/
theorem unnamedSetupFieldsIgnored : Obligations.UnnamedSetupFieldsIgnored := by
  unfold Obligations.UnnamedSetupFieldsIgnored
  refine ⟨fun p d e hfirst hcode h => decodeSetup_of_agreeOn hfirst hcode h, fun a => ?_⟩
  rw [plausible, endpointNumber_xor_dir, plausible]

end Sys2Proof
end

section
/-! A byte of the stream read in each mode (R104). -/
namespace Sys2Proof

theorem lowSix_eq_ofNat (b : Byte) : b.extractLsb' 0 6 = BitVec.ofNat 6 b.toNat := by
  rw [← BitVec.setWidth_eq_extractLsb' (by decide), BitVec.ofNat_toNat]

/-- The top two bits of a byte number its quarter of the byte range. -/
theorem topTwo_eq_iff (b : Byte) (q : BitVec 2) : b.extractLsb' 6 2 = q ↔ b.toNat / 0x40 = q.toNat := by
  rw [← BitVec.toNat_inj, BitVec.extractLsb'_toNat, Nat.shiftRight_eq_div_pow]
  have hb : b.toNat < 256 := b.isLt
  omega

theorem decodeBitBang_eq_quarter (b : Byte) : decodeBitBang b =
    if b.toNat < 0x40 then .bbw (BitVec.ofNat 6 b.toNat)
    else if b.toNat < 0x80 then .bbr (BitVec.ofNat 6 b.toNat)
    else if b.toNat < 0xC0 then .shw (BitVec.ofNat 6 b.toNat)
    else .shr (BitVec.ofNat 6 b.toNat) := by
  simp only [decodeBitBang, topTwo_eq_iff, lowSix_eq_ofNat, BitVec.reduceToNat]
  refine ite_congr (propext ?_) (fun _ => rfl) fun h0 => ite_congr (propext ?_) (fun _ => rfl) fun h1 =>
    ite_congr (propext ?_) (fun _ => rfl) fun _ => rfl
  all_goals omega

/-- Settles O7: the mode decides between the four commands by quarter and data by `WriteOnly`. -/
theorem streamBytesReadByMode : Obligations.StreamBytesReadByMode := by
  unfold Obligations.StreamBytesReadByMode
  refine ⟨fun w b => ?_, fun c b hc => ?_⟩
  · rw [decodeByte, if_pos rfl, decodeBitBang_eq_quarter]
  · simp only [decodeByte, if_neg hc]
    exact ⟨rfl, rfl⟩

end Sys2Proof
end

section
/-! The checksum is a fold over pairs of bytes (40_config_store.md R123), and a built block stores it behind the data
(R125). -/
namespace Sys2Proof.Machine

theorem cfgBuild_eq_some_iff {p : Params} {block : Vector Byte 128} :
    cfgBuild p = some block ↔ p.stringsFit = true ∧ cfgBlock p = block := by
  simp [cfgBuild]

theorem cfgBlock_toList (p : Params) : (cfgBlock p).toList = cfgBytes p := rfl

@[simp] theorem cfgData_length (p : Params) : (cfgData p).length = 126 := zeroFill_length 126 (cfgFields p)

theorem rol16_eq_rotateLeft (v : Half) : rol16 v = v.rotateLeft 1 := rfl

@[simp] theorem checksum_cons_cons (acc : Half) (even odd : Byte) (rest : List Byte) :
    checksum acc (even :: odd :: rest) = checksum (checksumPair acc even odd) rest := rfl

/-- The pairs of a list taken by their number: pair `i` is bytes `2 * i` and `2 * i + 1`. -/
theorem checksum_take_eq_foldl (n : Nat) (acc : Half) (l : List Byte) (h : 2 * n ≤ l.length) :
    checksum acc (l.take (2 * n)) =
      (List.range n).foldl (fun a i => checksumPair a (l.getD (2 * i) 0) (l.getD (2 * i + 1) 0)) acc := by
  induction n generalizing acc l with
  | zero => rfl
  | succ n ih =>
    match l, h with
    | even :: odd :: rest, h =>
      have hrest : 2 * n ≤ rest.length := by simp only [List.length_cons] at h; omega
      simp only [Nat.mul_succ, List.take_succ_cons, checksum_cons_cons, ih _ rest hrest,
        List.range_succ_eq_map, List.foldl_cons, List.foldl_map]
      rfl

/-- The data are the bytes before the checksum (R125). -/
theorem cfgBytes_take_data (p : Params) : (cfgBytes p).take 126 = cfgData p :=
  List.take_left' (cfgData_length p)

/-- Byte 127 over byte 126 is the checksum of the data (R125). -/
theorem cfgBytes_storedChecksum (p : Params) :
    (cfgBytes p).getD 127 0 ++ (cfgBytes p).getD 126 0 = checksum p.cksumSeed (cfgData p) := by
  have hlow : (cfgBytes p).getD 126 0 = (checksum p.cksumSeed (cfgData p)).extractLsb' 0 8 := by
    simp [cfgBytes]
  have hhigh : (cfgBytes p).getD 127 0 = (checksum p.cksumSeed (cfgData p)).extractLsb' 8 8 := by
    simp [cfgBytes]
  rw [hlow, hhigh, BitVec.extractLsb'_append_extractLsb'_eq_extractLsb' (by rfl)]
  exact BitVec.extractLsb'_eq_self

/-- Settles O59: the stored bytes are the checksum of the data, which is the fold over its 63 pairs. -/
theorem checksumStoredInBlock : Obligations.ChecksumStoredInBlock := by
  unfold Obligations.ChecksumStoredInBlock
  intro p hfit
  have hsum : checksum p.cksumSeed ((cfgBytes p).take (2 * 63)) =
      (cfgBytes p).getD 127 0 ++ (cfgBytes p).getD 126 0 := by
    rw [cfgBytes_storedChecksum, cfgBytes_take_data]
  refine ⟨cfgBlock p, cfgBuild_eq_some_iff.mpr ⟨hfit, rfl⟩, ?_, hsum⟩
  rw [cfgBlock_toList, ← hsum, checksum_take_eq_foldl _ _ _ (by rw [cfgBytes_length]; decide)]
  simp only [checksumPair, rol16_eq_rotateLeft]

end Sys2Proof.Machine
end

section
/-! The parts of a built block, one behind the other (40_config_store.md R121), and the values of the string table
(R122). -/
namespace Sys2Proof.Machine

/-- The five fields before the string table (R121). -/
def cfgHead (p : Params) : List Byte :=
  p.cfgReserved.toList ++ p.cfgIdentity.toList ++ p.cfgPower.toList ++ p.cfgMarker.toList ++ p.cfgUsbVer.toList

/-- The checksum's two bytes, low byte first (R125). -/
def cfgTail (p : Params) : List Byte :=
  [(checksum p.cksumSeed (cfgData p)).extractLsb' 0 8, (checksum p.cksumSeed (cfgData p)).extractLsb' 8 8]

/-- The offset behind the three strings (`E` of R121). -/
def cfgStringsEnd (p : Params) : Nat := 20 + p.cfgStr1.length + p.cfgStr2.length + p.cfgStr3.length

@[simp] theorem cfgHead_length (p : Params) : (cfgHead p).length = 14 := by simp [cfgHead]

@[simp] theorem stringTable_length (p : Params) : (stringTable p).length = 6 := rfl

theorem cfgFields_eq (p : Params) : cfgFields p =
    cfgHead p ++ stringTable p ++ p.cfgStr1 ++ p.cfgStr2 ++ p.cfgStr3 ++ p.cfgStrOrder.toList := rfl

theorem cfgFields_length (p : Params) : (cfgFields p).length = cfgStringsEnd p + 4 := by
  simp [cfgFields_eq, cfgStringsEnd, ← Nat.add_assoc]

theorem zeroFill_eq_append {n : Nat} {l : List Byte} (h : l.length ≤ n) :
    zeroFill n l = l ++ List.replicate (n - l.length) 0 := by
  simp [zeroFill, List.take_append, List.take_of_length_le h]

variable {p : Params}

theorem stringsFit_iff : p.stringsFit = true ↔ cfgStringsEnd p + 4 ≤ 126 := by
  simp only [Params.stringsFit, cfgStringsEnd, decide_eq_true_eq]
  omega

/-- Strings that fit push nothing over byte 126 (R124), so the block is its parts. -/
theorem cfgBytes_eq (hfit : p.stringsFit = true) : cfgBytes p =
    cfgHead p ++ stringTable p ++ p.cfgStr1 ++ p.cfgStr2 ++ p.cfgStr3 ++ p.cfgStrOrder.toList
      ++ List.replicate (122 - cfgStringsEnd p) 0 ++ cfgTail p := by
  have hlen : (cfgFields p).length ≤ 126 := cfgFields_length p ▸ stringsFit_iff.mp hfit
  have hpad : 126 - (cfgFields p).length = 122 - cfgStringsEnd p := by rw [cfgFields_length]; omega
  calc cfgBytes p = zeroFill 126 (cfgFields p) ++ cfgTail p := rfl
    _ = _ := by rw [zeroFill_eq_append hlen, hpad, cfgFields_eq]

/-- A part of a list stands at the offset that is the length of what precedes it. -/
theorem take_drop_of_isPrefix {α : Type} {l pre part : List α} {n : Nat} (h : pre ++ part <+: l)
    (hpre : pre.length = n) : (l.drop n).take part.length = part := by
  obtain ⟨post, rfl⟩ := h
  rw [List.append_assoc, List.drop_left' hpre, List.take_left]

theorem cfgBytes_str1 (hfit : p.stringsFit = true) :
    ((cfgBytes p).drop 20).take p.cfgStr1.length = p.cfgStr1 :=
  take_drop_of_isPrefix (pre := cfgHead p ++ stringTable p) (by simp [cfgBytes_eq hfit]) (by simp)

theorem cfgBytes_str2 (hfit : p.stringsFit = true) :
    ((cfgBytes p).drop (20 + p.cfgStr1.length)).take p.cfgStr2.length = p.cfgStr2 :=
  take_drop_of_isPrefix (pre := cfgHead p ++ stringTable p ++ p.cfgStr1) (by simp [cfgBytes_eq hfit])
    (by simp [← Nat.add_assoc])

theorem cfgBytes_str3 (hfit : p.stringsFit = true) :
    ((cfgBytes p).drop (20 + p.cfgStr1.length + p.cfgStr2.length)).take p.cfgStr3.length = p.cfgStr3 :=
  take_drop_of_isPrefix (pre := cfgHead p ++ stringTable p ++ p.cfgStr1 ++ p.cfgStr2) (by simp [cfgBytes_eq hfit])
    (by simp [← Nat.add_assoc])

theorem cfgBytes_strOrder (hfit : p.stringsFit = true) :
    ((cfgBytes p).drop (cfgStringsEnd p)).take 4 = p.cfgStrOrder.toList := by
  have h := take_drop_of_isPrefix (l := cfgBytes p) (part := p.cfgStrOrder.toList) (n := cfgStringsEnd p)
    (pre := cfgHead p ++ stringTable p ++ p.cfgStr1 ++ p.cfgStr2 ++ p.cfgStr3) (by simp [cfgBytes_eq hfit])
    (by simp [cfgStringsEnd, ← Nat.add_assoc])
  rwa [Vector.length_toList] at h

theorem cfgBytes_head (hfit : p.stringsFit = true) : (cfgBytes p).take 14 = cfgHead p := by
  simp only [cfgBytes_eq hfit, List.append_assoc]
  exact List.take_left' (cfgHead_length p)

/-- The six bytes behind the head are those of the string table. -/
theorem cfgBytes_getD_table (hfit : p.stringsFit = true) {i : Nat} (hi : i < 6) :
    (cfgBytes p).getD (14 + i) 0 = (stringTable p).getD i 0 := by
  simp only [cfgBytes_eq hfit, List.append_assoc]
  rw [List.getD_append_right _ _ _ _ (by simp), cfgHead_length, Nat.add_sub_cancel_left, List.getD_append _ _ _ _ hi]

theorem cfgBytes_padding (hfit : p.stringsFit = true) {k : Nat} (hlow : cfgStringsEnd p + 4 ≤ k) (hhigh : k < 126) :
    (cfgBytes p).getD k 0 = 0 := by
  have hlen : (cfgFields p).length ≤ k := cfgFields_length p ▸ hlow
  have hin : k - (cfgFields p).length < 122 - cfgStringsEnd p := by rw [cfgFields_length]; omega
  rw [cfgBytes_eq hfit, ← cfgFields_eq, List.append_assoc, List.getD_append_right _ _ _ _ hlen,
    List.getD_append _ _ _ _ (hin.trans_eq List.length_replicate.symm), List.getD_replicate _ hin]

/-- A running sum of byte offsets is the sum of the offsets, cut to a byte (R122). -/
theorem stringTable_eq (p : Params) : stringTable p =
    [p.strBase + BitVec.ofNat 8 20, BitVec.ofNat 8 p.cfgStr1.length,
      p.strBase + BitVec.ofNat 8 (20 + p.cfgStr1.length), BitVec.ofNat 8 p.cfgStr2.length,
      p.strBase + BitVec.ofNat 8 (20 + p.cfgStr1.length + p.cfgStr2.length), BitVec.ofNat 8 p.cfgStr3.length] := by
  simp [stringTable, BitVec.ofNat_add, BitVec.add_assoc]

/-- Settles O60: each part of a built block stands behind the parts before it. -/
theorem blockLayoutAndStringTable : Obligations.BlockLayoutAndStringTable := by
  unfold Obligations.BlockLayoutAndStringTable
  intro p block hbuild
  obtain ⟨hfit, rfl⟩ := cfgBuild_eq_some_iff.mp hbuild
  have hend : cfgStringsEnd p + 4 ≤ 126 := stringsFit_iff.mp hfit
  obtain ⟨h1, h2, h3⟩ : p.cfgStr1.length < 256 ∧ p.cfgStr2.length < 256 ∧ p.cfgStr3.length < 256 := by
    simp only [cfgStringsEnd] at hend
    omega
  have htable {i : Nat} (hi : i < 6) := cfgBytes_getD_table hfit hi
  simp only [stringTable_eq] at htable
  have hlength {i n : Nat} (hn : n < 256) (hi : (cfgBytes p).getD i 0 = BitVec.ofNat 8 n) :
      ((cfgBytes p).getD i 0).toNat = n := by
    rw [hi, BitVec.toNat_ofNat, Nat.mod_eq_of_lt hn]
  rw [cfgBlock_toList]
  refine ⟨cfgBytes_head hfit, ?_, ?_⟩
  · simp only [List.forall_mem_cons]
    exact ⟨⟨htable (i := 0) (by decide), hlength h1 (htable (i := 1) (by decide)), cfgBytes_str1 hfit⟩,
      ⟨htable (i := 2) (by decide), hlength h2 (htable (i := 3) (by decide)), cfgBytes_str2 hfit⟩,
      ⟨htable (i := 4) (by decide), hlength h3 (htable (i := 5) (by decide)), cfgBytes_str3 hfit⟩,
      List.forall_mem_nil _⟩
  · rintro e rfl
    exact ⟨cfgBytes_strOrder hfit, fun k hlow hhigh => cfgBytes_padding hfit hlow hhigh⟩

end Sys2Proof.Machine
end

section
/-! A standard request is decoded by direction, then code, then the field that its code names (41_control_dispatch.md R136,
R143): one equation for each sub-decoder and for each row that takes what no other row names. -/
namespace Sys2Proof

variable {p : Params} {d : SetupDesc}

theorem decodeSetup_standardIn (htype : d.reqType = 0) (hdir : d.dirIn = true) :
    decodeSetup p d = decodeStandardIn d := by
  simp [decodeSetup, htype, hdir]

theorem decodeSetup_standardOut (htype : d.reqType = 0) (hdir : d.dirIn = false) :
    decodeSetup p d = decodeStandardOut d := by
  simp [decodeSetup, htype, hdir]

theorem decodeSetup_getDescriptor (htype : d.reqType = 0) (hdir : d.dirIn = true) (hcode : d.bRequest = 0x06) :
    decodeSetup p d = decodeGetDescriptor d := by
  simp [decodeSetup_standardIn htype hdir, decodeStandardIn, hcode]

theorem decodeSetup_getStatus (htype : d.reqType = 0) (hdir : d.dirIn = true) (hcode : d.bRequest = 0x00) :
    decodeSetup p d = decodeGetStatus d := by
  simp [decodeSetup_standardIn htype hdir, decodeStandardIn, hcode]

theorem decodeSetup_clearFeature (htype : d.reqType = 0) (hdir : d.dirIn = false) (hcode : d.bRequest = 0x01) :
    decodeSetup p d = decodeClearFeature d := by
  simp [decodeSetup_standardOut htype hdir, decodeStandardOut, hcode]

theorem decodeSetup_setFeature (htype : d.reqType = 0) (hdir : d.dirIn = false) (hcode : d.bRequest = 0x03) :
    decodeSetup p d = decodeSetFeature d := by
  simp [decodeSetup_standardOut htype hdir, decodeStandardOut, hcode]

theorem decodeStandardIn_other (h : d.bRequest ∉ standardInCodes) :
    decodeStandardIn d = .standardInOther d.bRequest := by
  have hne : ∀ c ∈ standardInCodes, d.bRequest ≠ c := fun c hc heq => h (heq ▸ hc)
  rw [decodeStandardIn, if_neg (hne 0x08 (by decide)), if_neg (hne 0x0A (by decide)), if_neg (hne 0x06 (by decide)),
    if_neg (hne 0x00 (by decide)), if_neg (hne 0x0C (by decide))]

theorem decodeStandardOut_other (h : d.bRequest ∉ standardOutCodes) :
    decodeStandardOut d = .standardOutOther d.bRequest := by
  have hne : ∀ c ∈ standardOutCodes, d.bRequest ≠ c := fun c hc heq => h (heq ▸ hc)
  rw [decodeStandardOut, if_neg (hne 0x09 (by decide)), if_neg (hne 0x0B (by decide)), if_neg (hne 0x01 (by decide)),
    if_neg (hne 0x03 (by decide)), if_neg (hne 0x05 (by decide)), if_neg (hne 0x07 (by decide))]

theorem decodeGetDescriptor_other (h : d.wValueH ∉ descriptorTypes) :
    decodeGetDescriptor d = .getDescriptorOther d.wValueH := by
  have hne : ∀ c ∈ descriptorTypes, d.wValueH ≠ c := fun c hc heq => h (heq ▸ hc)
  rw [decodeGetDescriptor, if_neg (hne 0x01 (by decide)), if_neg (hne 0x02 (by decide)),
    if_neg (hne 0x03 (by decide)), if_neg (hne 0x06 (by decide)), if_neg (hne 0x07 (by decide))]

/-- The recipients from 3 on are those without a row of their own (R155). -/
theorem decodeGetStatus_other (h : 3 ≤ d.recipient.toNat) : decodeGetStatus d = .getStatusOther d.recipient := by
  have hne : ∀ r : BitVec 5, r.toNat < 3 → d.recipient ≠ r := fun r hr heq => by rw [heq] at h; omega
  rw [decodeGetStatus, if_neg (hne 0 (by decide)), if_neg (hne 1 (by decide)), if_neg (hne 2 (by decide))]

theorem decodeClearFeature_other (hdevice : d.recipient ≠ 0) (hendpoint : d.recipient ≠ 2) :
    decodeClearFeature d = .clearFeatureOther d.recipient := by
  rw [decodeClearFeature, if_neg hendpoint, if_neg hdevice]

theorem decodeSetFeature_other (hdevice : d.recipient ≠ 0) (hendpoint : d.recipient ≠ 2) :
    decodeSetFeature d = .setFeatureOther d.recipient := by
  rw [decodeSetFeature, if_neg hendpoint, if_neg hdevice]

end Sys2Proof
end

section
/-! The outcomes of a control request as the named operations of the state (R51, R262), and when an operand is in range
(R139, R148). -/
namespace Sys2Proof.Machine

variable {i : Instr} {s : State} {queries : List Call} {bytes : List Byte}

theorem stalls_of_protocolStall (h : exec i s = .next (protocolStall s)) : Stalls i s := h

theorem replies_of_stageReply (h : exec i s = .next (stageReply bytes { s with trace := s.trace ++ queries })) :
    Replies i s queries bytes := h

/-- A reply staged without a query. -/
theorem replies_nil_of_stageReply (h : exec i s = .next (stageReply bytes s)) : Replies i s [] bytes :=
  replies_of_stageReply (by rw [List.append_nil]; exact h)

/-- A descriptor in range is asked for, then staged (R143). -/
theorem replyDescriptor_of_ok {kind : DescKind} {index : Nat}
    (h : cfgDescriptor s.params.numStrings (descSetFor s.desc s.speedMode) kind index = .ok bytes) :
    replyDescriptor kind index s =
      stageReply bytes { s with trace := s.trace ++ [.descriptor kind index bytes] } := by
  rw [replyDescriptor, h]
  rfl

/-- What a request replies that asks for a descriptor in range. -/
theorem replies_of_replyDescriptor {kind : DescKind} {index : Nat} (hexec : exec i s = .next (replyDescriptor kind index s))
    (h : cfgDescriptor s.params.numStrings (descSetFor s.desc s.speedMode) kind index = .ok bytes) :
    Replies i s [.descriptor kind index bytes] bytes :=
  replies_of_stageReply (by rw [hexec, replyDescriptor_of_ok h])

theorem descString_of_lt {numStrings index : Nat} {set : DescSet} (hlt : index < numStrings)
    (hlisted : set.strings[index]? = some bytes) : descString numStrings set index = .ok bytes := by
  rw [descString, if_neg (Nat.not_le.mpr hlt), hlisted]

/-- A string index from `NUM_STRINGS` on stalls before the string is asked for (R148). -/
theorem replyDescriptor_string_of_le {index : Nat} (h : s.params.numStrings ≤ index) :
    replyDescriptor .string index s = protocolStall s := by
  simp [replyDescriptor, cfgDescriptor, descString, h, atBoundary]

theorem endpointNumber_eq_mod (a : Byte) : endpointNumber a = a.toNat % 128 := by
  rw [endpointNumber, BitVec.toNat_and]
  exact Nat.and_two_pow_sub_one_eq_mod a.toNat 7

/-- The plausible endpoints as a set of numbers (R139). -/
theorem plausible_iff (a : Byte) : plausible a = true ↔ a.toNat % 128 ∈ [0, 1, 2, 4, 6, 8] := by
  simp only [plausible, endpointNumber_eq_mod, Bool.or_eq_true, Bool.and_eq_true, beq_iff_eq, decide_eq_true_eq,
    List.mem_cons, List.not_mem_nil, or_false]
  omega

theorem endpointOperand_of_plausible {a : Byte} (h : plausible a = true) : endpointOperand a = .ok a := if_pos h

theorem endpointOperand_of_implausible {a : Byte} (h : plausible a = false) :
    endpointOperand a = .error .endpoint := by
  simp [endpointOperand, h]

/-- The status reply, its second byte as `EP_STATUS_LEN` says (R154). -/
theorem endpointStatus_eq (len : EpStatusLen) (stalled : Bool) :
    endpointStatus len stalled =
      (if stalled then 0x01 else 0x00) :: (if len = .two then [0x00] else []) := by
  cases len <;> rfl

end Sys2Proof.Machine
end

section
/-! The setup step and the standard requests (41_control_dispatch.md): the descriptor is decoded by the equations of the
sub-decoders, the outcome is one of the named operations. -/
namespace Sys2Proof

open Machine

/-- Settles O31, by what the one request can have done to the data phase. -/
theorem setupStepHandlesOneRequest : Obligations.SetupStepHandlesOneRequest := by
  unfold Obligations.SetupStepHandlesOneRequest
  refine fun s => ⟨fun hpending => ?_, exec_setupStep_idle⟩
  obtain ⟨t, new, hexec, -, handles⟩ := exec_setupStep hpending
  have hflag : t.setupPending = false := by rw [handles.state_eq]
  have htrace : t.trace = s.trace ++ new := by rw [handles.state_eq]
  have hctl : t.hostCtl = s.hostCtl := by rw [handles.state_eq]
  have hack : .ackHandshake ∉ new := fun hmem => Bool.noConfusion (handles.calls _ hmem)
  refine ⟨_, new, controlResult t.ep0 s.setupDesc.wLength, hexec, by simp [hflag], by simp [htrace], hack,
    by simp [hctl], ?_⟩
  cases handles.outcome with
  | neither calls ep0 => exact .inl ⟨calls, by rw [ep0]; rfl⟩
  | stall calls ep0 => exact .inr (.inl ⟨calls, by rw [ep0]; rfl⟩)
  | reply bytes arrives calls ep0 open_only =>
    refine .inr (.inr ⟨bytes, calls, fun hrenumerate => ?_⟩)
    have harrives : arrives = true := by
      cases arrives with
      | true => rfl
      | false => exact absurd (open_only rfl) hrenumerate
    rw [ep0, harrives, hostReceives, Nat.min_comm, ← List.take_eq_take_min]
    rfl

/-- Settles O53: of what a request can do, only taking the exception ends in a stall. -/
theorem stalledRequestWritesNothing : Obligations.StalledRequestWritesNothing := by
  unfold Obligations.StalledRequestWritesNothing
  intro i s t hrequest hempty hexec hstalled
  obtain ⟨u, new, hu, handles⟩ := exec_request i s hrequest
  obtain rfl : u = t := by simpa [hu] using hexec
  rcases handles.stalled hstalled with hbefore | hstall
  · simp [hempty] at hbefore
  · exact hstall

/-- Settles O39, by the range of the index. -/
theorem stringIndexOutOfRangeStalls : Obligations.StringIndexOutOfRangeStalls := by
  unfold Obligations.StringIndexOutOfRangeStalls
  refine ⟨fun p d htype hdir hcode hkind => ?_, fun s index bytes => ⟨fun hlt hlisted => ?_, fun hle => ?_⟩⟩
  · simp [decodeSetup_getDescriptor htype hdir hcode, decodeGetDescriptor, hkind]
  · exact replies_of_replyDescriptor rfl (descString_of_lt hlt hlisted)
  · exact stalls_of_protocolStall (congrArg _ (replyDescriptor_string_of_le hle))

/-- Settles O41, by the plausibility of the endpoint. -/
theorem endpointStatusReply : Obligations.EndpointStatusReply := by
  unfold Obligations.EndpointStatusReply
  refine ⟨fun p d htype hdir hcode hrecipient => ?_, fun s a => ?_⟩
  · simp [decodeSetup_getStatus htype hdir hcode, decodeGetStatus, hrecipient]
  simp only [← plausible_iff, Bool.not_eq_true]
  refine ⟨fun hplausible => ?_, fun himplausible => ?_⟩
  · rw [← endpointStatus_eq]
    refine replies_of_stageReply ?_
    rw [exec, execGetStatusEndpoint, endpointOperand_of_plausible hplausible]
    rfl
  · refine stalls_of_protocolStall ?_
    rw [exec, execGetStatusEndpoint, endpointOperand_of_implausible himplausible]
    rfl

/-- Settles O42: each unsupported form is the last row of its sub-decoder or has a code of its own, and the meaning of
each is taking the exception. -/
theorem unsupportedRequestsStall : Obligations.UnsupportedRequestsStall := by
  unfold Obligations.UnsupportedRequestsStall
  refine ⟨fun p d => ⟨fun htype => ?_, fun htype => ?_, fun htype hdir => ⟨?_, ?_, ?_, ?_⟩,
    fun htype hdir => ⟨?_, ?_, ?_, ?_⟩⟩, fun s b r i hi => ?_⟩
  · simp [decodeSetup, htype]
  · simp [decodeSetup, htype]
  · intro hcode hkind
    rw [decodeSetup_getDescriptor htype hdir hcode, decodeGetDescriptor_other hkind]
  · intro hcode hrecipient
    rw [decodeSetup_getStatus htype hdir hcode, decodeGetStatus_other hrecipient]
  · intro hcode
    simp [decodeSetup_standardIn htype hdir, decodeStandardIn, hcode]
  · intro hcode
    rw [decodeSetup_standardIn htype hdir, decodeStandardIn_other hcode]
  · intro hcode hdevice hendpoint
    rw [decodeSetup_clearFeature htype hdir hcode, decodeClearFeature_other hdevice hendpoint]
  · intro hcode hdevice hendpoint
    rw [decodeSetup_setFeature htype hdir hcode, decodeSetFeature_other hdevice hendpoint]
  · intro hcode
    simp [decodeSetup_standardOut htype hdir, decodeStandardOut, hcode]
  · intro hcode
    rw [decodeSetup_standardOut htype hdir, decodeStandardOut_other hcode]
  · refine stalls_of_protocolStall ?_
    revert i
    simp only [List.forall_mem_cons, List.not_mem_nil]
    exact ⟨rfl, rfl, rfl, rfl, rfl, rfl, rfl, rfl, rfl, rfl, nofun⟩

/-- Settles O37, by direction and code; each request stages its register. -/
theorem getConfigurationAndInterfaceReply : Obligations.GetConfigurationAndInterfaceReply := by
  unfold Obligations.GetConfigurationAndInterfaceReply
  refine ⟨fun p d htype hdir => ⟨fun hcode => ?_, fun hcode => ?_⟩, fun s =>
    ⟨replies_nil_of_stageReply rfl, replies_nil_of_stageReply rfl⟩⟩
  · simp [decodeSetup_standardIn htype hdir, decodeStandardIn, hcode]
  · simp [decodeSetup_standardIn htype hdir, decodeStandardIn, hcode]

/-- Settles O38: the four kinds are always in range, and the set is the one that `SpeedMode` selects. -/
theorem descriptorsStagedWhole : Obligations.DescriptorsStagedWhole := by
  unfold Obligations.DescriptorsStagedWhole
  refine ⟨fun p d htype hdir hcode => ?_, fun s set hset => ?_⟩
  · rw [decodeSetup_getDescriptor htype hdir hcode]
    refine ⟨fun hkind => ?_, fun hkind => ?_, fun hkind => ?_, fun hkind => ?_⟩ <;>
      simp [decodeGetDescriptor, hkind]
  · subst hset
    exact ⟨replies_of_replyDescriptor rfl rfl, replies_of_replyDescriptor rfl rfl, replies_of_replyDescriptor rfl rfl,
      replies_of_replyDescriptor rfl rfl⟩

/-- Settles O40, by the recipient; each request stages two zeros. -/
theorem deviceAndInterfaceStatusIsZero : Obligations.DeviceAndInterfaceStatusIsZero := by
  unfold Obligations.DeviceAndInterfaceStatusIsZero
  refine ⟨fun p d htype hdir hcode => ?_, fun s => ⟨replies_nil_of_stageReply rfl, replies_nil_of_stageReply rfl⟩⟩
  rw [decodeSetup_getStatus htype hdir hcode]
  exact ⟨fun hrecipient => by simp [decodeGetStatus, hrecipient], fun hrecipient => by simp [decodeGetStatus, hrecipient]⟩

/-- Settles O43, by direction and code; each request is its one store. -/
theorem setConfigurationAndInterfaceStore : Obligations.SetConfigurationAndInterfaceStore := by
  unfold Obligations.SetConfigurationAndInterfaceStore
  refine ⟨fun p d htype hdir => ?_, fun s v => ⟨rfl, rfl⟩⟩
  rw [decodeSetup_standardOut htype hdir]
  exact ⟨fun hcode => by simp [decodeStandardOut, hcode], fun hcode => by simp [decodeStandardOut, hcode]⟩

/-- Settles O45, by the selector. -/
theorem deviceFeatureAndSetAddress : Obligations.DeviceFeatureAndSetAddress := by
  unfold Obligations.DeviceFeatureAndSetAddress
  refine ⟨fun p d htype hdir => ⟨fun hcode hdevice => ?_, fun hcode hdevice => ?_, fun hcode => ?_⟩,
    fun s sel => ⟨rfl, fun htest => ?_, fun hother => ?_⟩⟩
  · simp [decodeSetup_clearFeature htype hdir hcode, decodeClearFeature, hdevice]
  · simp [decodeSetup_setFeature htype hdir hcode, decodeSetFeature, hdevice]
  · simp [decodeSetup_standardOut htype hdir, decodeStandardOut, hcode]
  · exact ⟨if_pos htest, if_pos htest⟩
  · exact ⟨stalls_of_protocolStall (if_neg hother), stalls_of_protocolStall (if_neg hother)⟩

end Sys2Proof
end

section
/-! A vendor request is decoded by direction, then code; the five IN codes of well-formed parameters are told apart
(30_encoding.md R103, 42_vendor_commands.md R180). -/
namespace Sys2Proof

variable {p : Params} {d : SetupDesc}

theorem decodeSetup_vendor (htype : d.reqType = 2) : decodeSetup p d = decodeVendor p d := by
  simp [decodeSetup, htype]

theorem decodeVendor_out (hdir : d.dirIn = false) :
    decodeVendor p d = if d.bRequest = p.vrStart then .start else .vendorOutOther d.bRequest := by
  simp [decodeVendor, hdir]

theorem decodeVendor_readConfig (hdir : d.dirIn = true) (hcode : d.bRequest = p.vrReadConfig) :
    decodeVendor p d = .readConfig d.wIndexL d.wLength := by
  simp [decodeVendor, hdir, hcode]

theorem Params.vendorInCodes_nodup (hwf : p.wf = true) : p.vendorInCodes.Nodup := by
  simp only [Params.wf, Bool.and_eq_true, decide_eq_true_eq] at hwf
  obtain ⟨⟨⟨⟨⟨-, hnodup⟩, -⟩, -⟩, -⟩, -⟩ := hwf
  exact hnodup

/-- Each vendor IN code is new among those that the decoder tests before it. -/
theorem Params.vendorInCode_notMem_earlier (hwf : p.wf = true) :
    p.vrChangeSpeed ∉ [p.vrReadConfig] ∧ p.vrChangeMaster ∉ [p.vrChangeSpeed, p.vrReadConfig]
      ∧ p.vrChangeMode ∉ [p.vrChangeMaster, p.vrChangeSpeed, p.vrReadConfig]
      ∧ p.vrGetVersion ∉ [p.vrChangeMode, p.vrChangeMaster, p.vrChangeSpeed, p.vrReadConfig] := by
  have hnodup : p.vendorInCodes.reverse.Nodup := List.nodup_reverse.mpr (Params.vendorInCodes_nodup hwf)
  obtain ⟨hversion, hmode, hmaster, hspeed, -⟩ := by
    simpa only [Params.vendorInCodes, List.reverse_cons, List.reverse_nil, List.nil_append, List.cons_append,
      List.nodup_cons] using hnodup
  exact ⟨hspeed, hmaster, hmode, hversion⟩

theorem decodeVendor_changeSpeed (hwf : p.wf = true) (hdir : d.dirIn = true) (hcode : d.bRequest = p.vrChangeSpeed) :
    decodeVendor p d = .changeSpeed := by
  obtain ⟨hnew, -, -, -⟩ := Params.vendorInCode_notMem_earlier hwf
  simp_all [decodeVendor]

theorem decodeVendor_changeMaster (hwf : p.wf = true) (hdir : d.dirIn = true) (hcode : d.bRequest = p.vrChangeMaster) :
    decodeVendor p d = .changeMaster := by
  obtain ⟨-, hnew, -, -⟩ := Params.vendorInCode_notMem_earlier hwf
  simp_all [decodeVendor]

theorem decodeVendor_changeMode (hwf : p.wf = true) (hdir : d.dirIn = true) (hcode : d.bRequest = p.vrChangeMode) :
    decodeVendor p d = .changeMode := by
  obtain ⟨-, -, hnew, -⟩ := Params.vendorInCode_notMem_earlier hwf
  simp_all [decodeVendor]

theorem decodeVendor_getVersion (hwf : p.wf = true) (hdir : d.dirIn = true) (hcode : d.bRequest = p.vrGetVersion) :
    decodeVendor p d = .getVersion := by
  obtain ⟨-, -, -, hnew⟩ := Params.vendorInCode_notMem_earlier hwf
  simp_all [decodeVendor]

theorem decodeVendor_inOther (hdir : d.dirIn = true) (hcode : d.bRequest ∉ p.vendorInCodes) :
    decodeVendor p d = .vendorInOther d.bRequest d.wLength := by
  simp_all [decodeVendor, Params.vendorInCodes]

end Sys2Proof
end

section
/-! The operands and the echo of the vendor requests (30_encoding.md R99, 42_vendor_commands.md R183 to R188), and the
pair of block bytes that READ_CONFIG reads (40_config_store.md R127). -/
namespace Sys2Proof.Machine

/-- The offset is even and wraps at the end of the block (R183). -/
theorem cfgOffset_eq (x : Byte) : cfgOffset x = 2 * (x.toNat % 64) := by
  have hmask : (0x7F : Byte).toNat = 2 ^ 7 - 1 := rfl
  rw [cfgOffset, BitVec.toNat_and, hmask, Nat.and_two_pow_sub_one_eq_mod, BitVec.toNat_shiftLeft, Nat.shiftLeft_eq]
  omega

theorem cfgByteAt_of_getElem? {block : Vector Byte 128} {o : Nat} {b : Byte} (h : block.toList[o]? = some b) :
    cfgByteAt block o = .ok b := by
  obtain ⟨ho, rfl⟩ := List.getElem?_eq_some_iff.mp h
  have ho : o < 128 := by simpa using ho
  simp [cfgByteAt, ho]

/-- What READ_CONFIG reads, by the contents of the block (R183). -/
theorem cfgPair_of_getElem? {s : State} {x b0 b1 : Byte} (h0 : s.configBlock.toList[cfgOffset x]? = some b0)
    (h1 : s.configBlock.toList[cfgOffset x + 1]? = some b1) :
    cfgPair (cfgOffset x) s = (.ok [b0, b1],
      { s with trace := s.trace ++ [.byteAt (cfgOffset x) (some b0), .byteAt (cfgOffset x + 1) (some b1)] }) := by
  obtain ⟨c0, c1, hread0, hread1, hpair⟩ := cfgPair_ok s x
  obtain rfl : b0 = c0 := Except.ok.inj ((cfgByteAt_of_getElem? h0).symm.trans hread0)
  obtain rfl : b1 = c1 := Except.ok.inj ((cfgByteAt_of_getElem? h1).symm.trans hread1)
  exact hpair

theorem clipTwo_pair (b0 b1 : Byte) (n : Half) : clipTwo [b0, b1] n = [b0, b1].take n.toNat := by
  rw [List.take_eq_take_min]
  rfl

/-- The echo of a flag that was toggled, by its old value (R184, R186). -/
theorem echoByte_not (flag : Bool) : echoByte (!flag) = if flag then 0x00 else 0x01 := by
  cases flag <;> rfl

end Sys2Proof.Machine
end

section
/-! The vendor requests (42_vendor_commands.md): the descriptor is decoded by the equations of the vendor decoder, and
each meaning is one update or one staged reply. -/
namespace Sys2Proof

open Machine

/-- Settles O48: the offset is twice the index modulo 64, and the pair of bytes read there is clipped. -/
theorem readConfigRepliesTwoBytes : Obligations.ReadConfigRepliesTwoBytes := by
  unfold Obligations.ReadConfigRepliesTwoBytes
  refine ⟨fun p d htype hdir hcode => ?_, fun s x n o b0 b1 ho h0 h1 => replies_of_stageReply ?_⟩
  · rw [decodeSetup_vendor htype, decodeVendor_readConfig hdir hcode]
  · rw [← cfgOffset_eq] at ho
    subst ho
    rw [exec, execReadConfig, cfgPair_of_getElem? h0 h1, ← clipTwo_pair]
    rfl

/-- Settles O49: the echo is staged over the renumerated transport, and the renumeration writes the transport alone. -/
theorem changeSpeedTogglesAndRenumerates : Obligations.ChangeSpeedTogglesAndRenumerates := by
  unfold Obligations.ChangeSpeedTogglesAndRenumerates
  refine ⟨fun p d hwf htype hdir hcode => ?_, fun s => ?_⟩
  · rw [decodeSetup_vendor htype, decodeVendor_changeSpeed hwf hdir hcode]
  · rw [← echoByte_not]
    exact ⟨_, Config.renumDelivers s.renums, rfl, rfl, by simp [stageReply, renumerate, call]⟩

/-- Settles O51, by the code; each request stages one reply. -/
theorem versionAndPlaceholderReply : Obligations.VersionAndPlaceholderReply := by
  unfold Obligations.VersionAndPlaceholderReply
  refine ⟨fun p d hwf htype hdir => ?_, fun s code n =>
    ⟨replies_nil_of_stageReply rfl, replies_nil_of_stageReply ?_⟩⟩
  · rw [decodeSetup_vendor htype]
    exact ⟨decodeVendor_getVersion hwf hdir, decodeVendor_inOther hdir⟩
  · rw [← clipTwo_pair]
    rfl

/-- Settles O47, by the code; START is its one store. -/
theorem startSetsRunning : Obligations.StartSetsRunning := by
  unfold Obligations.StartSetsRunning
  refine ⟨fun p d htype hdir => ?_, fun s code => ⟨rfl, rfl⟩⟩
  rw [decodeSetup_vendor htype, decodeVendor_out hdir]

/-- Settles O50, by the code; each request toggles its flag, then stages its reply. -/
theorem masterAndModeToggle : Obligations.MasterAndModeToggle := by
  unfold Obligations.MasterAndModeToggle
  refine ⟨fun p d hwf htype hdir => ?_, fun s => ⟨rfl, ?_⟩⟩
  · rw [decodeSetup_vendor htype]
    exact ⟨decodeVendor_changeMaster hwf hdir, decodeVendor_changeMode hwf hdir⟩
  · rw [← echoByte_not]
    rfl

end Sys2Proof
end

section
/-! The six data-plane commands (43_dataplane_interpreter.md R202 to R208): what a byte of the stream is read as, and what
each command does in the mode in which it runs, said once. -/
namespace Sys2Proof

/-- In bit-bang mode a byte is its command's quarter and its operand (R104). -/
theorem decodeByte_bitBang (w : Bool) (q : BitVec 2) (l : Six) : decodeByte 0 w (q ++ l) =
    if q = 0 then .bbw l else if q = 1 then .bbr l else if q = 2 then .shw l else .shr l := by
  have hquarter : BitVec.extractLsb' 6 2 (q ++ l : Byte) = q := BitVec.extractLsb'_append_eq_left
  have hoperand : BitVec.extractLsb' 0 6 (q ++ l : Byte) = l := BitVec.extractLsb'_append_eq_right
  rw [decodeByte, if_pos rfl, decodeBitBang, hquarter, hoperand]

theorem decodeByte_shift {c : Six} (hc : c ≠ 0) (w : Bool) (b : Byte) :
    decodeByte c w b = if w then .datw b else .datr b := if_neg hc

end Sys2Proof

namespace Sys2Proof.Machine

variable {s : State}

theorem inBitBang_of_zero (h : s.pendingShiftCount = 0) (o : Out) : inBitBang s o = o := by
  simp [inBitBang, bitBangMode, h]

theorem inShift_of_ne_zero {w : Bool} (h : s.pendingShiftCount ≠ 0) (hw : s.writeOnly = w) (o : Out) :
    inShift w s o = o := by
  have hmode : bitBangMode s = false := decide_eq_false h
  simp [inShift, hmode, hw]

/-- A positive count falls by one (R207). -/
theorem count_sub_one {c : Six} (hc : c ≠ 0) : c - 1 = BitVec.ofNat 6 (c.toNat - 1) := by
  have hpos : 0 < c.toNat := Nat.pos_of_ne_zero fun h => hc (BitVec.eq_of_toNat_eq h)
  bv_omega

theorem exec_bbw (h : s.pendingShiftCount = 0) (l : Six) :
    exec (.bbw l) s = .next { s with writeOnly := true, trace := s.trace ++ [.setLines l] } :=
  inBitBang_of_zero h _

theorem exec_shw (h : s.pendingShiftCount = 0) (n : Six) :
    exec (.shw n) s = .next { s with writeOnly := true, pendingShiftCount := n } :=
  inBitBang_of_zero h _

theorem exec_shr (h : s.pendingShiftCount = 0) (n : Six) :
    exec (.shr n) s = .next { s with writeOnly := false, pendingShiftCount := n } :=
  inBitBang_of_zero h _

/-- One answer is drawn, the scripted one where there is one (R44, R46). -/
theorem lineAnswer_spec (s : State) : ∃ a lineIn draws,
    lineAnswer s = (a, { s with lineIn := lineIn, draws := draws })
      ∧ ∀ b rest, s.lineIn = b :: rest → a = b ∧ lineIn = rest := by
  refine ⟨_, _, _, Prod.ext rfl (lineAnswer_snd s), fun b rest hb => ?_⟩
  rw [lineAnswer_scripted hb]
  exact ⟨rfl, rfl⟩

/-- BBR samples the status after the lines are set and appends it; on a full ring it faults (R203, R224). -/
theorem exec_bbr (h : s.pendingShiftCount = 0) (l : Six) : ∃ p lineIn draws,
    (s.pending < Config.cap → exec (.bbr l) s = .next { s with
        writeOnly := false, ring := s.ring.write (wrPos s) (readByte p), pending := s.pending + 1
        trace := s.trace ++ [.setLines l, .getState p], lineIn := lineIn, draws := draws })
      ∧ (Config.cap ≤ s.pending → exec (.bbr l) s = .fault .ringOverflow)
      ∧ ∀ a rest, s.lineIn = a :: rest → p = a ∧ lineIn = rest := by
  obtain ⟨p, lineIn, draws, hdraw, hscript⟩ := lineAnswer_spec (lineSetLines l (recordReadBit true s))
  have happend : exec (.bbr l) s = ringAppend (readByte p) { s with
      writeOnly := false, trace := s.trace ++ [.setLines l, .getState p], lineIn := lineIn, draws := draws } := by
    refine (inBitBang_of_zero h _).trans ?_
    simp only [lineGetState, hdraw]
    simp [call, lineSetLines, recordReadBit]
  exact ⟨p, lineIn, draws, fun hroom => happend.trans (ringAppend_of_lt hroom),
    fun hfull => happend.trans (ringAppend_full (Nat.not_lt.mpr hfull)), hscript⟩

theorem exec_datw (h : s.pendingShiftCount ≠ 0) (hw : s.writeOnly = true) (d : Byte) :
    exec (.datw d) s = .next { s with
      pendingShiftCount := s.pendingShiftCount - 1
      trace := s.trace ++ (shiftOrder s.params).map (fun k => .shiftOut (d.getLsbD k)) } := by
  refine (inShift_of_ne_zero h hw _).trans ?_
  rw [shiftOutBits_eq, countDown]

theorem shiftOrder_length (p : Params) : (shiftOrder p).length = 8 := by
  rcases shiftOrder_eq p with h | h <;> rw [h] <;> rfl

/-- The eight answers of a DATR byte: the scripted ones where the script holds eight (R205). -/
theorem shiftInOutBits_order (d : Byte) (s : State) : ∃ answers lineIn draws, answers.length = 8
    ∧ shiftInOutBits d (shiftOrder s.params) 0 s = (assembled s.params answers, { s with
        trace := s.trace ++ List.zipWith (fun k a => .shiftInOut (d.getLsbD k) a) (shiftOrder s.params) answers
        lineIn := lineIn, draws := draws })
    ∧ ∀ as rest, as.length = 8 → s.lineIn = as ++ rest → answers = as ∧ lineIn = rest := by
  by_cases hscript : ∃ as rest, as.length = 8 ∧ s.lineIn = as ++ rest
  · obtain ⟨as, rest, hlen, hin⟩ := hscript
    refine ⟨as, rest, s.draws, hlen, ?_, fun bs tail hbs htail => ?_⟩
    · exact shiftInOutBits_scripted d _ 0 s as rest (hlen.trans (shiftOrder_length _).symm) hin
    · exact List.append_inj (hin.symm.trans htail) (hlen.trans hbs.symm)
  · obtain ⟨answers, lineIn, draws, hlen, hbyte, hstate⟩ := shiftInOutBits_spec d (shiftOrder s.params) 0 s
    exact ⟨answers, lineIn, draws, hlen.trans (shiftOrder_length _), Prod.ext hbyte hstate,
      fun as rest hlen hin => absurd ⟨as, rest, hlen, hin⟩ hscript⟩

/-- DATR shifts eight bits out and in, appends the byte that the answers make up and counts down; on a full ring it faults
(R205, R207, R224). -/
theorem exec_datr (h : s.pendingShiftCount ≠ 0) (hw : s.writeOnly = false) (d : Byte) :
    ∃ answers lineIn draws, answers.length = 8
      ∧ (s.pending < Config.cap → exec (.datr d) s = .next { s with
          pendingShiftCount := s.pendingShiftCount - 1
          ring := s.ring.write (wrPos s) (assembled s.params answers), pending := s.pending + 1
          trace := s.trace ++ List.zipWith (fun k a => .shiftInOut (d.getLsbD k) a) (shiftOrder s.params) answers
          lineIn := lineIn, draws := draws })
      ∧ (Config.cap ≤ s.pending → exec (.datr d) s = .fault .ringOverflow)
      ∧ ∀ as rest, as.length = 8 → s.lineIn = as ++ rest → answers = as ∧ lineIn = rest := by
  obtain ⟨answers, lineIn, draws, hlen, hshift, hscript⟩ := shiftInOutBits_order d s
  have happend : exec (.datr d) s = andThen (ringAppend (assembled s.params answers) { s with
      trace := s.trace ++ List.zipWith (fun k a => .shiftInOut (d.getLsbD k) a) (shiftOrder s.params) answers
      lineIn := lineIn, draws := draws }) (fun t => .next (countDown t)) := by
    refine (inShift_of_ne_zero h hw _).trans ?_
    simp only [hshift]
  refine ⟨answers, lineIn, draws, hlen, fun hroom => ?_, fun hfull => ?_, hscript⟩
  · rw [happend, ringAppend_of_lt (by exact hroom)]
    rfl
  · rw [happend, ringAppend_full (by exact Nat.not_lt.mpr hfull)]
    rfl

end Sys2Proof.Machine
end

section
/-! The result byte of a DATR byte, bit by bit (43_dataplane_interpreter.md R205, R70). -/
namespace Sys2Proof.Machine

theorem getLsbD_putBit (r : Byte) (k j : Nat) (a : Bool) :
    (putBit r k a).getLsbD j = (r.getLsbD j || (decide (k < 8) && decide (k = j) && a)) := by
  cases a <;> simp [putBit, ← BitVec.twoPow_eq, BitVec.getLsbD_twoPow]

/-- A bit that no later answer goes to stays. -/
theorem getLsbD_foldl_putBit_of_notMem {j : Nat} {ks : List Nat} (hj : j ∉ ks) (answers : List Bool) (r : Byte) :
    ((ks.zip answers).foldl (fun b e => putBit b e.1 e.2) r).getLsbD j = r.getLsbD j := by
  induction ks generalizing answers r with
  | nil => rfl
  | cons k ks ih =>
    obtain ⟨hk, hks⟩ : j ≠ k ∧ j ∉ ks := by simpa using hj
    cases answers with
    | nil => rfl
    | cons a answers => simp [ih hks, getLsbD_putBit, Ne.symm hk]

/-- Each answer lands at its own position, where the positions differ and were zero. -/
theorem map_getLsbD_foldl_putBit {ks : List Nat} (hks : ks.Nodup) (hlt : ∀ k ∈ ks, k < 8) {answers : List Bool}
    (hlen : answers.length = ks.length) {r : Byte} (hr : ∀ k ∈ ks, r.getLsbD k = false) :
    ks.map (fun k => ((ks.zip answers).foldl (fun b e => putBit b e.1 e.2) r).getLsbD k) = answers := by
  induction ks generalizing answers r with
  | nil => exact (List.length_eq_zero_iff.mp hlen).symm
  | cons k ks ih =>
    obtain ⟨a, as, rfl⟩ := List.exists_cons_of_length_eq_add_one hlen
    obtain ⟨hk, hks⟩ := List.nodup_cons.mp hks
    obtain ⟨hltk, hlt⟩ := List.forall_mem_cons.mp hlt
    obtain ⟨hrk, hr⟩ := List.forall_mem_cons.mp hr
    have htail : ∀ j ∈ ks, (putBit r k a).getLsbD j = false := fun j hj => by
      have hne : k ≠ j := fun h => hk (h ▸ hj)
      simp [getLsbD_putBit, hr j hj, hne]
    simp only [List.zip_cons_cons, List.foldl_cons, List.map_cons]
    rw [ih hks hlt (Nat.succ.inj hlen) htail, getLsbD_foldl_putBit_of_notMem hk, getLsbD_putBit, hrk]
    simp [hltk]

/-- Read in shift order, the result byte is the answers (R205). -/
theorem assembled_bits (p : Params) {answers : List Bool} (hlen : answers.length = 8) :
    (shiftOrder p).map (fun k => (assembled p answers).getLsbD k) = answers := by
  have horder : (shiftOrder p).Nodup ∧ ∀ k ∈ shiftOrder p, k < 8 := by
    rcases shiftOrder_eq p with h | h <;> rw [h] <;> decide
  exact map_getLsbD_foldl_putBit horder.1 horder.2 (hlen.trans (shiftOrder_length p).symm) (by simp)

/-- The status byte is 02 or 03 (R98). -/
theorem readByte_eq (p : Bool) : readByte p = if p then 0x03 else 0x02 := by
  cases p <;> rfl

/-- A ring to which one byte was appended holds it at `WrPos` and is otherwise as it was (R223). -/
theorem ringRead_of_write {s t : State} {v : Byte} (h : t.ring = s.ring.write (wrPos s) v) :
    ringRead t ((s.rdCursor.toNat + s.pending) % 256) = v
      ∧ ∀ a, a % 256 ≠ (s.rdCursor.toNat + s.pending) % 256 → ringRead t a = ringRead s a := by
  have hring : ∀ a, ringRead t a =
      ringRead { s with ring := s.ring.write (wrPos s) v, pending := s.pending + 1 } a := ringRead_congr h
  exact ⟨(hring _).trans (ringRead_append_same s v (Nat.mod_mod _ _)),
    fun a ha => (hring a).trans (ringRead_append_other s v ha)⟩

end Sys2Proof.Machine
end

section
/-! The six data-plane commands settled (43_dataplane_interpreter.md R202 to R208). -/
namespace Sys2Proof

open Machine

/-- Settles O9, by the equation of BBW. -/
theorem bbwSetsLinesOnce : Obligations.BbwSetsLinesOnce := by
  unfold Obligations.BbwSetsLinesOnce
  exact ⟨fun w l => decodeByte_bitBang w 0 l, fun l s hmode => exec_bbw hmode l⟩

/-- Settles O11, by the equations of SHW and SHR. -/
theorem modeSwitchSetsCount : Obligations.ModeSwitchSetsCount := by
  unfold Obligations.ModeSwitchSetsCount
  exact ⟨fun w n => ⟨decodeByte_bitBang w 2 n, decodeByte_bitBang w 3 n⟩,
    fun n s hmode => ⟨exec_shw hmode n, exec_shr hmode n⟩⟩

/-- Settles O12, by the equation of DATW. -/
theorem datwShiftsEightBitsOut : Obligations.DatwShiftsEightBitsOut := by
  unfold Obligations.DatwShiftsEightBitsOut
  refine ⟨fun c d hc => decodeByte_shift hc true d, fun d s hcount hw => ?_⟩
  rw [exec_datw hcount hw, count_sub_one hcount]
  rfl

/-- Settles O10: BBR is one append to the ring, which has room or is full. -/
theorem bbrAppendsStatusByte : Obligations.BbrAppendsStatusByte := by
  unfold Obligations.BbrAppendsStatusByte
  refine ⟨fun w l => decodeByte_bitBang w 1 l, fun l s hmode => ?_⟩
  obtain ⟨p, lineIn, draws, hnext, hfault, hscript⟩ := exec_bbr hmode l
  refine ⟨fun hroom => ⟨p, _, hnext hroom, rfl, hscript, ?_⟩, hfault⟩
  rw [← readByte_eq]
  exact ringRead_of_write rfl

/-- Settles O13: DATR is one append of the assembled answers, with the count one less. -/
theorem datrShiftsEightBitsBothWays : Obligations.DatrShiftsEightBitsBothWays := by
  unfold Obligations.DatrShiftsEightBitsBothWays
  refine ⟨fun c d hc => decodeByte_shift hc false d, fun d s order hcount hw horder => ?_⟩
  obtain rfl : order = shiftOrder s.params := horder
  obtain ⟨answers, lineIn, draws, hlen, hnext, hfault, hscript⟩ := exec_datr hcount hw d
  rw [count_sub_one hcount] at hnext
  exact ⟨fun hroom => ⟨answers, assembled s.params answers, _, hnext hroom, hlen, rfl, hscript, assembled_bits _ hlen,
    ringRead_of_write rfl⟩, hfault⟩

end Sys2Proof
end

section
/-! The ingestion step (44_packet_framer.md R221, 43_dataplane_interpreter.md R200): what interpreting a chunk leaves, and
that a chunk within the gate's headroom fits (R224). -/
namespace Sys2Proof.Machine

/-- Interpreting writes only the mode state, the ring behind the pending bytes, the trace and the line's script (R211). -/
theorem Interprets.frame {s t : State} {new : List Call} {vs : List Byte} (h : Interprets s t new vs) :
    t = { s with pc := t.pc, pending := s.pending + vs.length, writeOnly := t.writeOnly
                 pendingShiftCount := t.pendingShiftCount, ring := t.ring, trace := t.trace, lineIn := t.lineIn
                 draws := t.draws }
      ∧ ∀ a, (∀ j, j < vs.length → a % 256 ≠ (s.rdCursor.toNat + s.pending + j) % 256) →
          ringRead t a = ringRead s a := by
  have hstate := h.state_eq
  have hring : t.ring = (pushed vs s).ring := by rw [hstate]
  refine ⟨?_, fun a ha => (ringRead_congr hring a).trans (ringRead_pushed vs s ha)⟩
  rw [hstate, pushed_eq]

/-- A chunk that the ring has room for is interpreted to its end (R200, R224). -/
theorem exec_ingest_fits {s : State} {chunk : List Byte} {queue : List (List Byte)} (hr : s.running = true)
    (hq : s.outQueue = chunk :: queue) (hp : s.pending < Config.gate) (hfits : s.pending + chunk.length ≤ Config.cap) :
    ∃ t new vs, exec .ingest s = .next t ∧ t.pc = chunk.length ∧ vs.length ≤ chunk.length
      ∧ Interprets (chunkTaken chunk queue s) t new vs := by
  rw [exec_ingest_taken hr hq hp]
  rcases interpretBytes_spec chunk.length (chunkTaken chunk queue s) with hnext | ⟨hfull, -⟩
  · simpa [chunkTaken] using hnext
  · simp only [chunkTaken, Nat.sub_zero, Nat.min_self] at hfull
    omega

end Sys2Proof.Machine

namespace Sys2Proof

open Machine

/-- Settles O15: an enabled ingestion interprets the chunk taken, a disabled one makes at most its query. -/
theorem ingestTakesOneWholeChunk : Obligations.IngestTakesOneWholeChunk := by
  unfold Obligations.IngestTakesOneWholeChunk
  refine ⟨fun s chunk queue hr hq hp => exec_ingest_taken hr hq hp, fun s chunk queue hr hq hp hlen => ?_,
    fun s hr hq => ?_, fun s chunk queue hr hq hp => ?_, fun s hr => ?_⟩
  · have hfits : s.pending + chunk.length ≤ Config.cap := by
      simp only [Config.cap]
      omega
    obtain ⟨t, new, vs, hexec, hpc, hvs, hi⟩ := exec_ingest_fits hr hq hp hfits
    obtain ⟨hstate, hring⟩ := hi.frame
    rw [hpc] at hstate
    have htrace : t.trace = (chunkTaken chunk queue s).trace ++ new := by rw [hi.state_eq]
    exact ⟨t, vs.length, hexec, hvs, hstate, hring, new, htrace⟩
  · have hquery : countQuery s = .outCount none := by rw [countQuery, hq]; rfl
    rw [exec_ingest_idle (by simp [ingestEnabled, hq]), if_pos hr, hquery]
    rfl
  · have hgate : ¬ s.pending < Config.gate := Nat.not_lt.mpr hp
    have hquery : countQuery s = .outCount (some chunk.length) := by rw [countQuery, hq]; rfl
    rw [exec_ingest_idle (by simp [ingestEnabled, hgate]), if_pos hr, hquery]
    rfl
  · rw [exec_ingest_idle (by simp [ingestEnabled, hr]), if_neg (by simp [hr])]

end Sys2Proof
end

section
/-! A run of byte-shift bytes (43_dataplane_interpreter.md R205 to R207, R209): each is data, whatever chunk it stands in,
and makes eight calls of the one kind that `WriteOnly` selects. -/
namespace Sys2Proof.Machine

theorem lineCalls_append (new calls : List Call) : lineCalls (new ++ calls) = lineCalls new + lineCalls calls := by
  simp [lineCalls]

theorem lineCalls_map_shiftOut (d : Byte) (ks : List Nat) :
    lineCalls (ks.map (fun k => Call.shiftOut (d.getLsbD k))) = (0, 0, ks.length, 0) := by
  simp [lineCalls, List.countP_map, Function.comp_def]

theorem lineCalls_zipWith_shiftInOut (d : Byte) {ks : List Nat} {answers : List Bool}
    (hlen : answers.length = ks.length) :
    lineCalls (List.zipWith (fun k a => Call.shiftInOut (d.getLsbD k) a) ks answers) = (0, 0, 0, ks.length) := by
  rw [← List.map_uncurry_zip_eq_zipWith]
  simp [lineCalls, List.countP_map, Function.comp_def, Function.uncurry_def, hlen]

/-- The calls of `n` byte-shift bytes, counted as `lineCalls` counts them. -/
def shiftCalls (writeOnly : Bool) (n : Nat) : Nat × Nat × Nat × Nat :=
  if writeOnly then (0, 0, 8 * n, 0) else (0, 0, 0, 8 * n)

theorem shiftCalls_add (w : Bool) (n m : Nat) : shiftCalls w (n + m) = shiftCalls w n + shiftCalls w m := by
  cases w <;> simp [shiftCalls, Nat.mul_add]

/-- What interpreting `n` byte-shift bytes does to the mode state, the cursor and the calls. -/
structure Shifts (n : Nat) (s t : State) (new : List Call) : Prop where
  outChunk : t.outChunk = s.outChunk
  pc : t.pc = s.pc + n
  pending_le : t.pending ≤ s.pending + n
  writeOnly : t.writeOnly = s.writeOnly
  count : t.pendingShiftCount.toNat = s.pendingShiftCount.toNat - n
  trace : t.trace = s.trace ++ new
  calls : lineCalls new = shiftCalls s.writeOnly n

theorem Shifts.refl (s : State) : Shifts 0 s s [] :=
  ⟨rfl, rfl, le_rfl, rfl, rfl, by simp, by simp [lineCalls, shiftCalls]⟩

theorem Shifts.trans {n m : Nat} {s t u : State} {new calls : List Call} (h : Shifts n s t new)
    (k : Shifts m t u calls) : Shifts (n + m) s u (new ++ calls) where
  outChunk := k.outChunk.trans h.outChunk
  pc := by rw [k.pc, h.pc, Nat.add_assoc]
  pending_le := by have := h.pending_le; have := k.pending_le; omega
  writeOnly := k.writeOnly.trans h.writeOnly
  count := by rw [k.count, h.count, Nat.sub_sub]
  trace := by rw [k.trace, h.trace, List.append_assoc]
  calls := by rw [lineCalls_append, h.calls, k.calls, h.writeOnly, shiftCalls_add]

theorem count_toNat_sub_one {c : Six} (hc : c ≠ 0) : (c - 1).toNat = c.toNat - 1 := by
  rw [count_sub_one hc, BitVec.toNat_ofNat]
  omega

/-- One byte of the stream with a positive count is DATW or DATR (R93). -/
theorem interpretByte_shifts (b : Byte) {s : State} (hcount : s.pendingShiftCount ≠ 0)
    (hroom : s.pending < Config.cap) : ∃ t new, interpretByte b s = .next t ∧ Shifts 1 s t new := by
  rw [interpretByte_eq, decodeByte_shift hcount]
  cases hw : s.writeOnly
  · obtain ⟨answers, lineIn, draws, hlen, hnext, -, -⟩ := exec_datr hcount hw b
    rw [if_neg Bool.false_ne_true, hnext hroom]
    refine ⟨_, _, rfl, rfl, rfl, le_rfl, rfl, count_toNat_sub_one hcount, rfl, ?_⟩
    rw [lineCalls_zipWith_shiftInOut b (hlen.trans (shiftOrder_length _).symm), shiftOrder_length, hw]
    rfl
  · rw [if_pos rfl, exec_datw hcount hw]
    refine ⟨_, _, rfl, rfl, rfl, Nat.le_add_right _ _, rfl, count_toNat_sub_one hcount, rfl, ?_⟩
    rw [lineCalls_map_shiftOut, shiftOrder_length, hw]
    rfl

/-- Bytes no more than the count are data to the last one (R209). -/
theorem interpretBytes_shifts (k : Nat) (s : State) (hchunk : s.pc + k ≤ s.outChunk.length)
    (hcount : k ≤ s.pendingShiftCount.toNat) (hroom : s.pending + k ≤ Config.cap) :
    ∃ t new, interpretBytes k s = .next t ∧ Shifts k s t new := by
  induction k generalizing s with
  | zero => exact ⟨s, [], rfl, .refl s⟩
  | succ k ih =>
    have hbyte : fetchByte s = some (s.outChunk[s.pc]'(by omega)) := List.getElem?_eq_getElem _
    have hne : s.pendingShiftCount ≠ 0 := fun h => by simp [h] at hcount
    obtain ⟨t, new, ht, hshift⟩ := interpretByte_shifts (s.outChunk[s.pc]'(by omega)) hne (by omega)
    obtain ⟨u, calls, hu, hrest⟩ := ih t (by rw [hshift.outChunk, hshift.pc]; omega)
      (by rw [hshift.count]; omega) (by have := hshift.pending_le; omega)
    refine ⟨u, new ++ calls, ?_, Nat.add_comm 1 k ▸ hshift.trans hrest⟩
    simp only [interpretBytes, hbyte, ht, andThen_next, hu]

end Sys2Proof.Machine
end

section
/-! Every instruction of the loop but an ingestion that takes a chunk leaves the mode state alone
(43_dataplane_interpreter.md R209). -/
namespace Sys2Proof.Machine

variable {s t : State}

/-- Two states of the same mode: `WriteOnly` and `PendingShiftCount` agree. -/
def SameMode (s t : State) : Prop := t.writeOnly = s.writeOnly ∧ t.pendingShiftCount = s.pendingShiftCount

theorem sameMode_of_next {o : Out} {u : State} (h : o = .next t) (hu : o = .next u) (hsame : SameMode s u) :
    SameMode s t := by
  obtain rfl : u = t := Host.Outcome.next.inj (hu.symm.trans h)
  exact hsame

theorem sameMode_setupStep (h : exec .setupStep s = .next t) : SameMode s t := by
  cases hp : s.setupPending with
  | false => exact sameMode_of_next h (exec_setupStep_idle hp) ⟨rfl, rfl⟩
  | true =>
    obtain ⟨u, new, hexec, -, hhandles⟩ := exec_setupStep hp
    refine sameMode_of_next h hexec ?_
    rw [hhandles.state_eq]
    exact ⟨rfl, rfl⟩

theorem sameMode_dataPacket (h : exec .dataPacket s = .next t) : SameMode s t := by
  rcases exec_dataPacket s with ⟨-, hexec⟩ | ⟨-, -, hexec⟩ | ⟨-, -, -, hexec⟩ <;>
    exact sameMode_of_next h hexec ⟨rfl, rfl⟩

theorem sameMode_keepalivePacket (h : exec .keepalivePacket s = .next t) : SameMode s t := by
  rcases exec_keepalivePacket s with ⟨-, hexec⟩ | ⟨-, -, hexec⟩ | ⟨-, -, -, -, hexec⟩ <;>
    exact sameMode_of_next h hexec ⟨rfl, rfl⟩

theorem sameMode_ingest_idle (hidle : ingestEnabled s = false) (h : exec .ingest s = .next t) : SameMode s t := by
  refine sameMode_of_next h (exec_ingest_idle hidle) ?_
  cases s.running <;> exact ⟨rfl, rfl⟩

theorem sameMode_event {turn : Turn} {i : Instr} (he : turnEnabled s turn = true) (hi : turnEvent turn = some i)
    (h : exec i s = .next t) : SameMode s t := by
  rcases exec_event he hi with ⟨-, hexec⟩ | ⟨d, -, -, -, hexec⟩ | ⟨chunk, -, -, hexec⟩ | ⟨-, -, hexec⟩ <;>
    exact sameMode_of_next h hexec ⟨rfl, rfl⟩

theorem sameMode_coreInstr (hidle : coreInstr s ≠ .ingest ∨ ingestEnabled s = false)
    (h : exec (coreInstr s) s = .next t) : SameMode s t := by
  rcases coreInstr_cases s with ⟨-, hi⟩ | ⟨-, hi⟩ | ⟨-, -, hi⟩ | ⟨-, -, hi⟩ <;> rw [hi] at h hidle
  · exact sameMode_setupStep h
  · exact sameMode_ingest_idle (hidle.resolve_left (not_not_intro rfl)) h
  · exact sameMode_dataPacket h
  · exact sameMode_keepalivePacket h

/-- The turns still to come do not decide which events are enabled. -/
theorem turnEnabled_with_turns (rest : List Turn) (turn : Turn) :
    turnEnabled { s with turns := rest } turn = turnEnabled s turn := by
  cases turn <;> rfl

theorem sameMode_step (hidle : (nextTurn s).1 ≠ .ingest ∨ ingestEnabled s = false) (h : step s = .next t) :
    SameMode s t := by
  obtain ⟨u, hexec, rfl⟩ := step_eq_next.mp h
  obtain ⟨rest, hstate, -, hturn⟩ := nextTurn_spec s
  rw [hstate] at hexec
  have hsame : SameMode { s with turns := rest } u := by
    rcases hturn with ⟨hi, -⟩ | ⟨turn, -, henabled, hi, -⟩
    · rw [hi] at hexec hidle
      exact sameMode_coreInstr hidle hexec
    · exact sameMode_event ((turnEnabled_with_turns rest turn).trans henabled) hi hexec
  exact hsame

end Sys2Proof.Machine

namespace Sys2Proof

open Machine

/-- Settles O56: instruction by instruction, and byte by byte of the run that was left over. -/
theorem modeStatePersists : Obligations.ModeStatePersists := by
  unfold Obligations.ModeStatePersists
  refine ⟨fun s t hstep hidle => sameMode_step hidle hstep, fun s chunk queue hr hq hp hlen => ?_⟩
  have hroom : s.pending + chunk.length ≤ Config.cap := by
    have hcount : s.pendingShiftCount.toNat < 64 := s.pendingShiftCount.isLt
    simp only [Config.cap]
    omega
  obtain ⟨t, new, hexec, hshift⟩ := interpretBytes_shifts chunk.length (chunkTaken chunk queue s) (Nat.zero_add _).le
    hlen hroom
  refine ⟨t, [.outCount (some chunk.length), .outTake chunk] ++ new, (exec_ingest_taken hr hq hp).trans hexec,
    hshift.writeOnly, hshift.count, ?_, ?_⟩
  · rw [hshift.trace]
    exact List.append_assoc _ _ _
  · rw [lineCalls_append, hshift.calls]
    exact zero_add _

end Sys2Proof
end

section
/-! The emission step when it emits and when it has nothing to emit (44_packet_framer.md R225 to R228). -/
namespace Sys2Proof.Machine

/-- A data packet inside its condition takes the oldest bytes and submits them (R226). -/
theorem exec_dataPacket_enabled {s : State} (hr : s.running = true) (hb : s.inBusy = false) (hp : 0 < s.pending) :
    exec .dataPacket s =
      .next (armTick (inSubmit (dataPacketOf s) (ringTake (payloadLength s) (call (.inBusy false) s)))) := by
  rcases exec_dataPacket s with ⟨hstopped, -⟩ | ⟨-, hbusy | hempty, -⟩ | ⟨-, -, -, hexec⟩
  · exact absurd (hr.symm.trans hstopped) nofun
  · exact absurd (hb.symm.trans hbusy) nofun
  · exact absurd hempty hp.ne'
  · exact hexec

/-- A keepalive inside its condition submits the bare header and clears the flag (R227). -/
theorem exec_keepalivePacket_enabled {s : State} (hr : s.running = true) (hb : s.inBusy = false)
    (hp : s.pending = 0) (ht : s.tickFlag = true) :
    exec .keepalivePacket s = .next { inSubmit Config.hdr (call (.inBusy false) s) with tickFlag := false } := by
  rcases exec_keepalivePacket s with ⟨hstopped, -⟩ | ⟨-, hbusy | hpos | hclear, -⟩ | ⟨-, -, -, -, hexec⟩
  · exact absurd (hr.symm.trans hstopped) nofun
  · exact absurd (hb.symm.trans hbusy) nofun
  · exact absurd hp hpos.ne'
  · exact absurd (ht.symm.trans hclear) nofun
  · exact hexec

/-- A keepalive with the flag clear makes at most its query (R228, R242). -/
theorem exec_keepalivePacket_noTick {s : State} (ht : s.tickFlag = false) :
    exec .keepalivePacket s = .next (if s.running then call (.inBusy s.inBusy) s else s) := by
  rcases exec_keepalivePacket s with ⟨hr, hexec⟩ | ⟨hr, -, hexec⟩ | ⟨-, -, -, hset, -⟩
  · rw [hexec, if_neg (by simp [hr])]
  · rw [hexec, if_pos hr]
  · exact absurd (ht.symm.trans hset) nofun

/-- The payload of a data packet is the oldest part of what the ring holds (R226). -/
theorem dataPacketOf_eq (s : State) :
    dataPacketOf s = Config.hdr ++ (ringContents s).take (payloadLength s) := by
  have hle : payloadLength s ≤ s.pending := min_le_left _ _
  rw [dataPacketOf, ringRun_eq_take hle]

/-- With no turn of another agent to come, the core moves and the next part of its iteration is due (R240, R244). -/
theorem step_core_of_no_turns {s : State} (hturns : s.turns = []) :
    step s = andThen (exec (coreInstr s) s) (fun t => .next { t with phase := nextPhase t.phase }) := by
  rw [step, nextTurn, hturns]
  rfl

/-- In the emission phase with nothing pending the core's instruction is the keepalive (R225). -/
theorem coreInstr_emit_empty {s : State} (hphase : s.phase = .emit) (hp : s.pending = 0) :
    coreInstr s = .keepalivePacket := by
  simp [coreInstr, hphase, hp]

end Sys2Proof.Machine

namespace Sys2Proof

open Machine

/-- Settles O21: the payload is the oldest part of what the ring holds, and taking it drops that part. -/
theorem dataPacketSendsOldestBytes : Obligations.DataPacketSendsOldestBytes := by
  unfold Obligations.DataPacketSendsOldestBytes
  rintro s n packet hr hb hp hn hpacket
  have hlength : payloadLength s = n := hn.symm
  have hdata : dataPacketOf s = packet := by rw [dataPacketOf_eq, hlength, hpacket]; rfl
  have hcursor : s.rdCursor + BitVec.ofNat 8 n = BitVec.ofNat 8 (s.rdCursor.toNat + n) := by
    rw [BitVec.ofNat_add, BitVec.ofNat_toNat, BitVec.setWidth_eq]
  have harm : (s.tickFlag || s.params.armSetsTick) = if s.params.armSetsTick then true else s.tickFlag := by
    cases s.params.armSetsTick <;> simp
  refine ⟨_, exec_dataPacket_enabled hr hb hp, ?_, ?_⟩
  · calc
      _ = ringContents (ringTake (payloadLength s) s) := ringContents_congr rfl rfl rfl
      _ = (ringContents s).drop n := by rw [ringContents_take, hlength]
  · rw [hdata, hlength, ← hcursor, ← harm]
    simp [armTick, inSubmit, ringTake, call]

/-- Settles O22, by the keepalive inside its condition. -/
theorem keepaliveSendsBareHeader : Obligations.KeepaliveSendsBareHeader := by
  unfold Obligations.KeepaliveSendsBareHeader
  intro s hr hb hp ht
  rw [exec_keepalivePacket_enabled hr hb hp ht]
  simp [inSubmit, call, Config.hdr]

/-- Settles O23: the turn is the core's, its instruction is the keepalive, and with the flag clear that is at most a
query. -/
theorem nothingToEmitChangesNothing : Obligations.NothingToEmitChangesNothing := by
  unfold Obligations.NothingToEmitChangesNothing
  intro s hb hp ht hphase hturns
  rw [step_core_of_no_turns hturns, coreInstr_emit_empty hphase hp, exec_keepalivePacket_noTick ht, hb]
  cases hr : s.running <;> simp [nextPhase, call, hphase, hr, hb]

end Sys2Proof
end

section
/-! What each instruction does to `TickFlag` (60_exceptions.md R267): the data-plane commands and the requests leave it
alone, and of the events only the keepalive clears it. -/
namespace Sys2Proof.Machine

variable {s t : State} {i : Instr}

/-- The six commands of the bulk-OUT stream (R91, R93). -/
def isDataCommand : Instr → Bool
  | .bbw _ => true
  | .bbr _ => true
  | .shw _ => true
  | .shr _ => true
  | .datw _ => true
  | .datr _ => true
  | _ => false

/-- Every instruction is a data-plane command, a control request or an event (R112). -/
theorem instr_kinds (i : Instr) : isDataCommand i = true ∨ isRequest i = true ∨ isEvent i = true := by
  have hkinds : (isDataCommand i || (isRequest i || isEvent i)) = true := by cases i <;> rfl
  simpa using hkinds

theorem count_eq_zero_of_inBitBang_next {o : Out} (h : inBitBang s o = .next t) : s.pendingShiftCount = 0 := by
  by_contra hcount
  have hmode : bitBangMode s = false := decide_eq_false hcount
  simp [inBitBang, hmode] at h

theorem mode_of_inShift_next {w : Bool} {o : Out} (h : inShift w s o = .next t) :
    s.pendingShiftCount ≠ 0 ∧ s.writeOnly = w := by
  by_contra hmode
  have hrefused : (!bitBangMode s && s.writeOnly == w) = false := by
    simpa [bitBangMode] using hmode
  simp [inShift, hrefused] at h

/-- A data-plane command answers a next state only in the mode in which some byte of the stream is read as it (R104). -/
theorem exists_byte_of_dataCommand_next (hi : isDataCommand i = true) (h : exec i s = .next t) :
    ∃ b, decodeByte s.pendingShiftCount s.writeOnly b = i := by
  cases i with
  | bbw l => exact ⟨0#2 ++ l, by rw [count_eq_zero_of_inBitBang_next h, decodeByte_bitBang]; rfl⟩
  | bbr l => exact ⟨1#2 ++ l, by rw [count_eq_zero_of_inBitBang_next h, decodeByte_bitBang]; rfl⟩
  | shw n => exact ⟨2#2 ++ n, by rw [count_eq_zero_of_inBitBang_next h, decodeByte_bitBang]; rfl⟩
  | shr n => exact ⟨3#2 ++ n, by rw [count_eq_zero_of_inBitBang_next h, decodeByte_bitBang]; rfl⟩
  | datw d =>
    obtain ⟨hcount, hw⟩ := mode_of_inShift_next h
    exact ⟨d, by rw [decodeByte_shift hcount, hw]; rfl⟩
  | datr d =>
    obtain ⟨hcount, hw⟩ := mode_of_inShift_next h
    exact ⟨d, by rw [decodeByte_shift hcount, hw]; rfl⟩
  | _ => cases hi

theorem Interprets.tickFlag {new : List Call} {vs : List Byte} (h : Interprets s t new vs) :
    t.tickFlag = s.tickFlag := by
  rw [h.state_eq, pushed_eq]

theorem Handles.tickFlag {new : List Call} (h : Handles i s t new) : t.tickFlag = s.tickFlag := by
  rw [h.state_eq]

theorem tickFlag_dataCommand (hi : isDataCommand i = true) (h : exec i s = .next t) : t.tickFlag = s.tickFlag := by
  obtain ⟨b, rfl⟩ := exists_byte_of_dataCommand_next hi h
  rcases exec_byte b s with ⟨u, new, vs, hexec, -, -, hinterprets⟩ | ⟨-, hexec⟩
  · cases hexec.symm.trans h
    exact hinterprets.tickFlag
  · cases hexec.symm.trans h

theorem tickFlag_request (hi : isRequest i = true) (h : exec i s = .next t) : t.tickFlag = s.tickFlag := by
  obtain ⟨u, new, hexec, hhandles⟩ := exec_request i s hi
  cases hexec.symm.trans h
  exact hhandles.tickFlag

theorem tickFlag_setupStep (h : exec .setupStep s = .next t) : t.tickFlag = s.tickFlag := by
  cases hp : s.setupPending with
  | false =>
    cases (exec_setupStep_idle hp).symm.trans h
    rfl
  | true =>
    obtain ⟨u, new, hexec, -, hhandles⟩ := exec_setupStep hp
    cases hexec.symm.trans h
    exact hhandles.tickFlag

theorem tickFlag_ingest (h : exec .ingest s = .next t) : t.tickFlag = s.tickFlag := by
  rcases exec_ingest s with ⟨-, hexec⟩ | ⟨chunk, queue, -, -, -, ⟨u, new, vs, hexec, -, -, hinterprets⟩ | ⟨-, hexec⟩⟩
  · cases hexec.symm.trans h
    cases s.running <;> rfl
  · cases hexec.symm.trans h
    exact hinterprets.tickFlag
  · cases hexec.symm.trans h

/-- A data packet may set the flag (R226) but does not clear it. -/
theorem tickFlag_dataPacket (h : exec .dataPacket s = .next t) (hs : s.tickFlag = true) : t.tickFlag = true := by
  rcases exec_dataPacket s with ⟨-, hexec⟩ | ⟨-, -, hexec⟩ | ⟨-, -, -, hexec⟩ <;>
    cases hexec.symm.trans h <;> simp [hs]

/-- An event of another agent may set the flag (R267) but does not clear it. -/
theorem tickFlag_event {turn : Turn} (he : turnEnabled s turn = true) (hi : turnEvent turn = some i)
    (h : exec i s = .next t) (hs : s.tickFlag = true) : t.tickFlag = true := by
  rcases exec_event he hi with ⟨-, hexec⟩ | ⟨d, -, -, -, hexec⟩ | ⟨chunk, -, -, hexec⟩ | ⟨-, -, hexec⟩ <;>
    cases hexec.symm.trans h <;> simp [hs]

/-- An arrival answers a next state only where it is enabled (R268). -/
theorem turnEnabled_of_setupArrives_next {d : SetupDesc} (h : exec (.setupArrives d) s = .next t) :
    turnEnabled s (.setupArrives d) = true := by
  cases hp : s.setupPending with
  | false => simp [turnEnabled, hp]
  | true => simp [exec, execSetupArrives, hp] at h

/-- The host takes a packet only where it is enabled (R270). -/
theorem turnEnabled_of_hostTakesIn_next (h : exec .hostTakesIn s = .next t) : turnEnabled s .hostTakesIn = true := by
  cases hb : s.inBusy with
  | false => simp [exec, execHostTakesIn, hb] at h
  | true => exact hb

/-- Only the keepalive clears the flag (R267). -/
theorem tickFlag_of_ne_keepalivePacket (h : exec i s = .next t) (hs : s.tickFlag = true) (hi : i ≠ .keepalivePacket) :
    t.tickFlag = true := by
  rcases instr_kinds i with hkind | hkind | hkind
  · exact (tickFlag_dataCommand hkind h).trans hs
  · exact (tickFlag_request hkind h).trans hs
  · cases i with
    | setupStep => exact (tickFlag_setupStep h).trans hs
    | ingest => exact (tickFlag_ingest h).trans hs
    | dataPacket => exact tickFlag_dataPacket h hs
    | keepalivePacket => exact absurd rfl hi
    | tick => exact tickFlag_event (turn := .tick) rfl rfl h hs
    | setupArrives d => exact tickFlag_event (turnEnabled_of_setupArrives_next h) rfl h hs
    | chunkArrives chunk => exact tickFlag_event (turn := .chunkArrives chunk) rfl rfl h hs
    | hostTakesIn => exact tickFlag_event (turnEnabled_of_hostTakesIn_next h) rfl h hs
    | _ => cases hkind

end Sys2Proof.Machine

namespace Sys2Proof

open Machine

/-- Settles O33, by the kind of the instruction: command, request or event. -/
theorem tickFlagSetByTickClearedByKeepalive : Obligations.TickFlagSetByTickClearedByKeepalive := by
  unfold Obligations.TickFlagSetByTickClearedByKeepalive
  refine ⟨fun s => rfl, fun i s t hexec hs ht => ?_⟩
  by_contra hi
  exact absurd ((tickFlag_of_ne_keepalivePacket hexec hs hi).symm.trans ht) nofun

end Sys2Proof
end

section
/-! The events of the host and of the transport (60_exceptions.md R268 to R270). -/
namespace Sys2Proof.Machine

variable {s : State}

/-- A descriptor that arrives with none pending is latched (R268). -/
theorem exec_setupArrives (hp : s.setupPending = false) (d : SetupDesc) :
    exec (.setupArrives d) s = .next { s with setupDesc := d, setupPending := true } := by
  simp [exec, execSetupArrives, hp]

/-- A packet held is delivered whole (R270). -/
theorem exec_hostTakesIn {packet : List Byte} (hb : s.inBusy = true) (hpacket : s.inPkt = some packet) :
    exec .hostTakesIn s = .next { s with inBusy := false, inPkt := none, hostIn := s.hostIn ++ [packet] } := by
  simp [exec, execHostTakesIn, hb, hpacket]

/-- An event that is not enabled waits in the script and the core moves instead (R244). -/
theorem step_core_of_disabled {turn : Turn} {rest : List Turn} (hturns : s.turns = turn :: rest)
    (hdisabled : turnEnabled s turn = false) :
    step s = andThen (exec (coreInstr s) s) (fun t => .next { t with phase := nextPhase t.phase }) := by
  have hturn : nextTurn s = (coreInstr s, true, s) := by simp [nextTurn, hturns, hdisabled]
  rw [step, hturn]
  rfl

end Sys2Proof.Machine

namespace Sys2Proof

open Machine

/-- Settles O34: the arrival is enabled exactly while no setup is pending. -/
theorem setupArrivalLatchesDescriptor : Obligations.SetupArrivalLatchesDescriptor := by
  unfold Obligations.SetupArrivalLatchesDescriptor
  refine fun d s => ⟨fun hp => exec_setupArrives hp d, fun rest hp hturns => ?_⟩
  exact step_core_of_disabled hturns (by simp [turnEnabled, hp])

/-- Settles O35: a chunk joins the queue in every state, and the endpoint's packet goes to the host. -/
theorem transportDeliversChunksAndPackets : Obligations.TransportDeliversChunksAndPackets := by
  unfold Obligations.TransportDeliversChunksAndPackets
  exact ⟨fun chunk s _ => rfl, fun packet s hb hpacket => exec_hostTakesIn hb hpacket⟩

end Sys2Proof
end

section
/-! What the loop's instructions can do, each run in its turn, and what a step can do, said once (45_event_loop.md R240,
R244): the statements about every step are case analyses of `Moves`. -/
namespace Sys2Proof.Machine

variable {s t : State} {i : Instr}

/-- What an instruction of the loop can do in its turn: nothing, or one query, or what its rule says. -/
inductive Moves (s : State) : Instr → State → List Call → Prop where
  | nothing {i : Instr} : Moves s i s []
  | asksCount {i : Instr} : Moves s i (call (countQuery s) s) [countQuery s]
  | asksBusy {i : Instr} : Moves s i (call (.inBusy s.inBusy) s) [.inBusy s.inBusy]
  | request {u : State} {new : List Call} (pending : s.setupPending = true)
      (handles : Handles (decodeSetup s.params s.setupDesc) { s with setupPending := false, ep0 := .empty } u new) :
      Moves s .setupStep (ackHandshake s.setupDesc.wLength u) (new ++ [.ackHandshake])
  | ingestion {chunk : List Byte} {queue : List (List Byte)} {u : State} {new : List Call} {vs : List Byte}
      (waits : s.outQueue = chunk :: queue) (pc : u.pc = chunk.length) (atMost : vs.length ≤ chunk.length)
      (interprets : Interprets (chunkTaken chunk queue s) u new vs) :
      Moves s .ingest u ([.outCount (some chunk.length), .outTake chunk] ++ new)
  | dataPacket (pending : 0 < s.pending) :
      Moves s .dataPacket (armTick (inSubmit (dataPacketOf s) (ringTake (payloadLength s) (call (.inBusy false) s))))
        [.inBusy false, .inSubmit (dataPacketOf s)]
  | keepalive (empty : s.pending = 0) (due : s.tickFlag = true) :
      Moves s .keepalivePacket { inSubmit Config.hdr (call (.inBusy false) s) with tickFlag := false }
        [.inBusy false, .inSubmit Config.hdr]
  | tick : Moves s .tick { s with tickFlag := true } []
  | setupArrives (d : SetupDesc) : Moves s (.setupArrives d) { s with setupDesc := d, setupPending := true } []
  | chunkArrives (chunk : List Byte) : Moves s (.chunkArrives chunk) { s with outQueue := s.outQueue ++ [chunk] } []
  | hostTakesIn :
      Moves s .hostTakesIn { s with inBusy := false, inPkt := none, hostIn := s.hostIn ++ s.inPkt.toList } []

/-- The oldest chunk is about to be taken and is longer than the room that the ring has left (R224). -/
def Overflows (s : State) : Prop :=
  s.running = true ∧ s.pending < Config.gate ∧ ∃ chunk queue, s.outQueue = chunk :: queue
    ∧ Config.cap < s.pending + chunk.length

theorem exec_setupStep_moves (s : State) : ∃ t new, exec .setupStep s = .next t ∧ Moves s .setupStep t new := by
  cases hp : s.setupPending with
  | false => exact ⟨s, [], exec_setupStep_idle hp, .nothing⟩
  | true =>
    obtain ⟨u, new, hexec, -, hhandles⟩ := exec_setupStep hp
    exact ⟨_, _, hexec, .request hp hhandles⟩

theorem exec_ingest_moves (s : State) :
    (∃ t new, exec .ingest s = .next t ∧ Moves s .ingest t new)
      ∨ (Overflows s ∧ exec .ingest s = .fault .ringOverflow) := by
  rcases exec_ingest s with ⟨-, hexec⟩ | ⟨chunk, queue, hr, hq, hp, ⟨t, new, vs, hexec, hpc, hvs, hi⟩ | ⟨hfull, hexec⟩⟩
  · cases hr : s.running with
    | false => exact .inl ⟨s, [], by rw [hexec, hr]; rfl, .nothing⟩
    | true => exact .inl ⟨_, _, by rw [hexec, hr]; rfl, .asksCount⟩
  · exact .inl ⟨t, _, hexec, .ingestion hq hpc hvs hi⟩
  · exact .inr ⟨⟨hr, hp, chunk, queue, hq, hfull⟩, hexec⟩

theorem exec_dataPacket_moves (s : State) : ∃ t new, exec .dataPacket s = .next t ∧ Moves s .dataPacket t new := by
  rcases exec_dataPacket s with ⟨-, hexec⟩ | ⟨-, -, hexec⟩ | ⟨-, -, hp, hexec⟩
  · exact ⟨_, _, hexec, .nothing⟩
  · exact ⟨_, _, hexec, .asksBusy⟩
  · exact ⟨_, _, hexec, .dataPacket hp⟩

theorem exec_keepalivePacket_moves (s : State) :
    ∃ t new, exec .keepalivePacket s = .next t ∧ Moves s .keepalivePacket t new := by
  rcases exec_keepalivePacket s with ⟨-, hexec⟩ | ⟨-, -, hexec⟩ | ⟨-, -, hp, ht, hexec⟩
  · exact ⟨_, _, hexec, .nothing⟩
  · exact ⟨_, _, hexec, .asksBusy⟩
  · exact ⟨_, _, hexec, .keepalive hp ht⟩

theorem exec_event_moves {turn : Turn} (henabled : turnEnabled s turn = true) (hi : turnEvent turn = some i) :
    ∃ t new, exec i s = .next t ∧ Moves s i t new := by
  rcases exec_event henabled hi with ⟨rfl, hexec⟩ | ⟨d, -, rfl, -, hexec⟩ | ⟨chunk, -, rfl, hexec⟩ | ⟨rfl, -, hexec⟩
  · exact ⟨_, _, hexec, .tick⟩
  · exact ⟨_, _, hexec, .setupArrives d⟩
  · exact ⟨_, _, hexec, .chunkArrives chunk⟩
  · exact ⟨_, _, hexec, .hostTakesIn⟩

/-- The core's instruction moves, or the ingestion overflows the ring. -/
theorem exec_coreInstr_moves (s : State) :
    (∃ t new, exec (coreInstr s) s = .next t ∧ Moves s (coreInstr s) t new)
      ∨ (s.phase = .ingest ∧ Overflows s ∧ exec (coreInstr s) s = .fault .ringOverflow) := by
  rcases coreInstr_cases s with ⟨-, hi⟩ | ⟨hphase, hi⟩ | ⟨-, -, hi⟩ | ⟨-, -, hi⟩ <;> rw [hi]
  · exact .inl (exec_setupStep_moves s)
  · exact (exec_ingest_moves s).imp_right fun h => ⟨hphase, h⟩
  · exact .inl (exec_dataPacket_moves s)
  · exact .inl (exec_keepalivePacket_moves s)

/-- A chunk that arrives in the next turn stands in the script. -/
theorem chunkArrives_mem_turns {chunk : List Byte} (h : (nextTurn s).1 = .chunkArrives chunk) :
    .chunkArrives chunk ∈ s.turns := by
  obtain ⟨rest, -, -, ⟨hcore, -⟩ | ⟨turn, hturn, -, hevent, -⟩⟩ := nextTurn_spec s
  · rw [hcore] at h
    rcases coreInstr_cases s with ⟨-, hi⟩ | ⟨-, hi⟩ | ⟨-, -, hi⟩ | ⟨-, -, hi⟩ <;> cases hi.symm.trans h
  · rw [h] at hevent
    cases turn <;> cases hevent
    exact hturn

/-- What a step can do from any state: its instruction moves, in a state whose script is a part of the old one, or an
ingestion overflows the ring (R244, R224). -/
theorem step_moves (s : State) : ∃ rest, (∀ turn ∈ rest, turn ∈ s.turns) ∧
    ((∃ u new phase, step s = .next { u with phase := phase } ∧ Moves { s with turns := rest } (nextTurn s).1 u new)
      ∨ (s.phase = .ingest ∧ Overflows s ∧ step s = .fault .ringOverflow)) := by
  obtain ⟨rest, hstate, hrest, hturn⟩ := nextTurn_spec s
  have hexec : (∃ u new, exec (nextTurn s).1 (nextTurn s).2.2 = .next u
        ∧ Moves { s with turns := rest } (nextTurn s).1 u new)
      ∨ (s.phase = .ingest ∧ Overflows s ∧ exec (nextTurn s).1 (nextTurn s).2.2 = .fault .ringOverflow) := by
    rw [hstate]
    rcases hturn with ⟨hi, -⟩ | ⟨turn, -, henabled, hi, -⟩
    · rw [hi]
      exact exec_coreInstr_moves { s with turns := rest }
    · exact .inl (exec_event_moves ((turnEnabled_with_turns rest turn).trans henabled) hi)
  refine ⟨rest, hrest, hexec.imp (fun ⟨u, new, hu, hmoves⟩ => ?_) (fun ⟨hphase, hfull, hfault⟩ => ⟨hphase, hfull, ?_⟩)⟩
  · exact ⟨u, new, _, step_eq_next.mpr ⟨u, hu, rfl⟩, hmoves⟩
  · rw [step, hfault]
    rfl

/-- A step that answers a next state is a move. -/
theorem moves_of_step (h : step s = .next t) : ∃ rest i u new phase, (∀ turn ∈ rest, turn ∈ s.turns)
    ∧ (nextTurn s).1 = i ∧ t = { u with phase := phase } ∧ Moves { s with turns := rest } i u new := by
  obtain ⟨rest, hrest, ⟨u, new, phase, hu, hmoves⟩ | ⟨-, -, hfault⟩⟩ := step_moves s
  · exact ⟨rest, _, u, new, phase, hrest, rfl, Host.Outcome.next.inj (h.symm.trans hu), hmoves⟩
  · cases hfault.symm.trans h

theorem Moves.trace {new : List Call} (h : Moves s i t new) : t.trace = s.trace ++ new := by
  cases h with
  | request pending handles =>
    rw [ackHandshake_trace, handles.state_eq]
    exact List.append_assoc _ _ _
  | ingestion waits pc atMost interprets =>
    rw [interprets.state_eq]
    exact List.append_assoc _ _ _
  | _ => simp

/-- No move writes the parameters, the Configuration Block or the descriptors (R37, R38). -/
theorem Moves.fixedData {new : List Call} (h : Moves s i t new) :
    t.configBlock = s.configBlock ∧ t.desc = s.desc ∧ t.params = s.params := by
  cases h with
  | request pending handles =>
    simp only [ackHandshake_configBlock, ackHandshake_desc, ackHandshake_params]
    rw [handles.state_eq]
    exact ⟨rfl, rfl, rfl⟩
  | ingestion waits pc atMost interprets =>
    rw [interprets.state_eq, pushed_eq]
    exact ⟨rfl, rfl, rfl⟩
  | _ => exact ⟨rfl, rfl, rfl⟩

end Sys2Proof.Machine
end

section
/-! A run of the machine is its steps, one after the other. -/
namespace Sys2Proof.Machine

/-- `k` steps, one gone on from after the other. -/
def runSteps : Nat → State → Out
  | 0, s => .next s
  | k + 1, s => andThen (step s) (runSteps k)

theorem core_run_succ_of_next {M : Host.Core} {s t : M.State} (h : M.step s = .next t) (k : Nat) :
    M.run (k + 1) s = M.run k t := by
  simp only [Host.Core.run, h]

theorem core_run_succ_of_fault {M : Host.Core} {s : M.State} {r : M.Fault} (h : M.step s = .fault r) (k : Nat) :
    M.run (k + 1) s = .fault r := by
  simp only [Host.Core.run, h]

theorem core_run_succ_of_refused {M : Host.Core} {s : M.State} {r : M.Refusal} (h : M.step s = .refused r) (k : Nat) :
    M.run (k + 1) s = .refused r := by
  simp only [Host.Core.run, h]

theorem core_run_eq_runSteps (k : Nat) (s : State) : Host.Core.run Sys2Proof.core k s = runSteps k s := by
  induction k generalizing s with
  | zero => rfl
  | succ k ih =>
    rw [runSteps]
    cases h : step s with
    | next t => exact (core_run_succ_of_next (M := Sys2Proof.core) h k).trans (ih t)
    | fault r => exact core_run_succ_of_fault (M := Sys2Proof.core) h k
    | refused r => exact core_run_succ_of_refused (M := Sys2Proof.core) h k

end Sys2Proof.Machine
end

section
/-! First in, first out (44_packet_framer.md R229): what enters the ring are the results that a move samples, what leaves
it are the payloads that a move submits. -/
namespace Sys2Proof.Machine

variable {s t u : State} {i : Instr} {new calls : List Call}

theorem payloads_append (new calls : List Call) : payloads (new ++ calls) = payloads new ++ payloads calls := by
  induction new with
  | nil => rfl
  | cons c rest ih => cases c <;> simp [payloads, ih]

/-- The calls that neither sample a result nor submit a packet. -/
def isSilent : Call → Bool
  | .getState _ => false
  | .shiftInOut _ _ => false
  | .inSubmit _ => false
  | _ => true

theorem isSilent_of_isControlCall {c : Call} (h : isControlCall c = true) : isSilent c = true := by
  have himplies : (isSilent c || !isControlCall c) = true := by cases c <;> rfl
  simpa [h] using himplies

/-- The results `vs` are sampled by some calls, and the old bytes followed by them are the payloads of those calls
followed by the bytes still pending. -/
structure Conveys (s t : State) (new : List Call) (vs : List Byte) : Prop where
  params : t.params = s.params
  trace : t.trace = s.trace ++ new
  results_eq : ∀ rest, results s.params (new ++ rest) = vs ++ results s.params rest
  queue_eq : payloads new ++ ringContents t = ringContents s ++ vs

theorem Conveys.refl (s : State) : Conveys s s [] [] :=
  ⟨rfl, (List.append_nil _).symm, fun _ => rfl, (List.append_nil _).symm⟩

theorem Conveys.trans {vs ws : List Byte} (h : Conveys s t new vs) (k : Conveys t u calls ws) :
    Conveys s u (new ++ calls) (vs ++ ws) where
  params := k.params.trans h.params
  trace := by rw [k.trace, h.trace, List.append_assoc]
  results_eq rest := by rw [List.append_assoc, h.results_eq, ← h.params, k.results_eq, h.params, List.append_assoc]
  queue_eq := by rw [payloads_append, List.append_assoc, k.queue_eq, ← List.append_assoc, h.queue_eq, List.append_assoc]

theorem results_cons_of_silent (p : Params) {c : Call} (hc : isSilent c = true) (rest : List Call) :
    results p (c :: rest) = results p rest := by
  cases c with
  | getState answer => cases hc
  | shiftInOut b answer => cases hc
  | inSubmit packet => cases hc
  | _ => rfl

theorem payloads_cons_of_silent {c : Call} (hc : isSilent c = true) (rest : List Call) :
    payloads (c :: rest) = payloads rest := by
  cases c with
  | getState answer => cases hc
  | shiftInOut b answer => cases hc
  | inSubmit packet => cases hc
  | _ => rfl

theorem results_of_silent (p : Params) (h : ∀ c ∈ new, isSilent c = true) (rest : List Call) :
    results p (new ++ rest) = results p rest := by
  induction new with
  | nil => rfl
  | cons c new ih =>
    obtain ⟨hc, hnew⟩ := List.forall_mem_cons.mp h
    exact (results_cons_of_silent p hc _).trans (ih hnew)

theorem payloads_of_silent (h : ∀ c ∈ new, isSilent c = true) : payloads new = [] := by
  induction new with
  | nil => rfl
  | cons c new ih =>
    obtain ⟨hc, hnew⟩ := List.forall_mem_cons.mp h
    exact (payloads_cons_of_silent hc _).trans (ih hnew)

/-- Calls that neither sample nor submit leave the ring's contents as they are, where the ring stays. -/
theorem Conveys.of_silent (h : ∀ c ∈ new, isSilent c = true) (hparams : t.params = s.params)
    (htrace : t.trace = s.trace ++ new) (hcontents : ringContents t = ringContents s) : Conveys s t new [] where
  params := hparams
  trace := htrace
  results_eq := results_of_silent s.params h
  queue_eq := by rw [payloads_of_silent h, hcontents, List.nil_append, List.append_nil]

theorem Conveys.of_interprets {vs : List Byte} (h : Interprets s t new vs) : Conveys s t new vs where
  params := by rw [h.state_eq, pushed_eq]
  trace := by rw [h.state_eq]
  results_eq := h.samples.results_eq
  queue_eq := by
    have hcontents : ringContents t = ringContents (pushed vs s) := by
      rw [h.state_eq]
      rfl
    rw [h.samples.payloads_eq, hcontents, List.nil_append]
    cases vs with
    | nil => exact (List.append_nil _).symm
    | cons v vs => exact ringContents_pushed _ s (h.fits (List.cons_ne_nil v vs))

theorem conveys_chunkTaken (chunk : List Byte) (queue : List (List Byte)) (s : State) :
    Conveys s (chunkTaken chunk queue s) [.outCount (some chunk.length), .outTake chunk] [] :=
  .of_silent (by simp [isSilent]) rfl rfl rfl

theorem conveys_dataPacket (s : State) :
    Conveys s (armTick (inSubmit (dataPacketOf s) (ringTake (payloadLength s) (call (.inBusy false) s))))
      [.inBusy false, .inSubmit (dataPacketOf s)] [] where
  params := rfl
  trace := by simp
  results_eq _ := rfl
  queue_eq := by
    have htaken : ringContents (armTick (inSubmit (dataPacketOf s) (ringTake (payloadLength s) (call (.inBusy false) s))))
        = (ringContents s).drop (payloadLength s) := ringContents_take s _
    rw [htaken, List.append_nil, dataPacketOf_eq]
    simp [payloads, Config.hdr]

theorem Moves.conveys (h : Moves s i t new) : ∃ vs, Conveys s t new vs := by
  have htrace := h.trace
  cases h with
  | nothing => exact ⟨[], .refl s⟩
  | request pending handles =>
    refine ⟨[], .of_silent (fun c hc => ?_) (by rw [ackHandshake_params, handles.state_eq]) htrace ?_⟩
    · rcases List.mem_append.mp hc with hc | hc
      · exact isSilent_of_isControlCall (handles.calls c hc)
      · rw [List.mem_singleton.mp hc]
        rfl
    · rw [handles.state_eq]
      rfl
  | ingestion waits pc atMost interprets =>
    exact ⟨_, (conveys_chunkTaken _ _ s).trans (.of_interprets interprets)⟩
  | dataPacket pending => exact ⟨[], conveys_dataPacket s⟩
  | keepalive empty due => exact ⟨[], rfl, htrace, fun _ => rfl, (List.append_nil _).symm⟩
  | _ => exact ⟨[], .of_silent (by simp [countQuery, isSilent]) rfl htrace rfl⟩

theorem conveys_of_step (h : step s = .next t) : ∃ new vs, Conveys s t new vs := by
  obtain ⟨rest, i, u, new, phase, -, -, rfl, hmoves⟩ := moves_of_step h
  obtain ⟨vs, hconveys⟩ := hmoves.conveys
  exact ⟨new, vs, hconveys.params, hconveys.trace, hconveys.results_eq, hconveys.queue_eq⟩

theorem conveys_of_runSteps {k : Nat} (h : runSteps k s = .next t) : ∃ new vs, Conveys s t new vs := by
  induction k generalizing s with
  | zero =>
    cases h
    exact ⟨[], [], .refl _⟩
  | succ k ih =>
    obtain ⟨u, hstep, hrun⟩ := andThen_eq_next.mp h
    obtain ⟨new, vs, hfirst⟩ := conveys_of_step hstep
    obtain ⟨calls, ws, hlater⟩ := ih hrun
    exact ⟨_, _, hfirst.trans hlater⟩

end Sys2Proof.Machine

namespace Sys2Proof

open Machine

/-- Settles O24, by induction on the number of steps: each move conveys the bytes in order. -/
theorem ringIsFirstInFirstOut : Obligations.RingIsFirstInFirstOut := by
  unfold Obligations.RingIsFirstInFirstOut
  intro k s t hrun
  obtain ⟨new, vs, hconveys⟩ := conveys_of_runSteps ((core_run_eq_runSteps k s).symm.trans hrun)
  have hresults : results s.params new = vs := by simpa [results] using hconveys.results_eq []
  exact ⟨new, hconveys.trace, hresults ▸ hconveys.queue_eq⟩

end Sys2Proof
end

section
/-! The invariant (10_state.md section 1, 44_packet_framer.md section 1): every move keeps it, and with it no chunk is
longer than the room behind the gate. -/
namespace Sys2Proof.Machine

variable {s t : State} {i : Instr} {new : List Call}

theorem maxChunk_le_of_wf {p : Params} (h : p.wf = true) : p.maxChunk ≤ 64 := by
  simp only [Params.wf, Bool.and_eq_true, decide_eq_true_eq] at h
  obtain ⟨⟨⟨⟨⟨hmax, -⟩, -⟩, -⟩, -⟩, -⟩ := h
  exact hmax

/-- The gate leaves room for a lawful chunk (R224). -/
theorem State.Inv.not_overflows (h : s.Inv) : ¬ Overflows s := by
  rintro ⟨-, hgate, chunk, queue, hq, hfull⟩
  have hchunk : chunk.length ≤ s.params.maxChunk := h.queue_ok chunk (by simp [hq])
  have hmax := maxChunk_le_of_wf h.params_wf
  simp only [Config.gate, Config.cap] at hgate hfull
  omega

theorem State.Inv.with_turns (h : s.Inv) {rest : List Turn} (hrest : ∀ turn ∈ rest, turn ∈ s.turns) :
    State.Inv { s with turns := rest } :=
  { h with turns_ok := fun turn hturn => h.turns_ok turn (hrest turn hturn) }

theorem State.Inv.with_phase (h : s.Inv) (phase : Phase) : State.Inv { s with phase := phase } :=
  { h with }

/-- A request writes none of what the invariant speaks of but the transport's own state, within its bounds (R55). -/
theorem Handles.inv (h : Handles i s t new) (hs : s.Inv) : t.Inv := by
  have hqueue : ∀ chunk ∈ t.outQueue, chunk.length ≤ s.params.maxChunk := by
    rcases h.outQueue with hsame | hnew
    · rw [hsame]
      exact hs.queue_ok
    · exact hnew
  have hpacket : ∀ packet ∈ t.inPkt, framed packet = true := by
    rcases h.inPkt with hsame | hnew
    · rw [hsame]
      exact hs.inPkt_framed
    · exact hnew
  rw [h.state_eq]
  exact { hs with
    queue_ok := hqueue
    inPkt_framed := hpacket
    epStall_rising := h.epStall hs.epStall_rising
    epToggle_rising := h.epToggle hs.epToggle_rising }

/-- Interpreting a chunk to its end appends within the capacity and writes nothing else of what the invariant speaks of. -/
theorem Interprets.inv {vs : List Byte} (h : Interprets s t new vs) (hpc : t.pc ≤ s.outChunk.length) (hs : s.Inv) :
    t.Inv := by
  have hpending : s.pending + vs.length ≤ Config.cap := by
    rcases vs with _ | ⟨v, vs⟩
    · exact hs.pending_le
    · exact h.fits (List.cons_ne_nil v vs)
  rw [h.state_eq, pushed_eq]
  exact { hs with ring_wf := ring_wf_pushed vs hs.ring_wf, pending_le := hpending, pc_le := hpc }

theorem State.Inv.chunkTaken (h : s.Inv) {chunk : List Byte} {queue : List (List Byte)}
    (hq : s.outQueue = chunk :: queue) : (chunkTaken chunk queue s).Inv :=
  { h with
    queue_ok := fun c hc => h.queue_ok c (by rw [hq]; exact List.mem_cons_of_mem _ hc)
    pc_le := Nat.zero_le _ }

/-- Every move keeps the invariant; a chunk that arrives must be lawful. -/
theorem Moves.inv (h : Moves s i t new) (harrives : ∀ chunk, i = .chunkArrives chunk → chunk.length ≤ s.params.maxChunk)
    (hs : s.Inv) : t.Inv := by
  cases h with
  | nothing => exact hs
  | asksCount => exact { hs with }
  | asksBusy => exact { hs with }
  | request pending handles => exact { handles.inv { hs with } with }
  | ingestion waits pc atMost interprets => exact interprets.inv pc.le (hs.chunkTaken waits)
  | dataPacket pending =>
    exact { hs with
      pending_le := le_trans (Nat.sub_le _ _) hs.pending_le
      inPkt_framed := by rintro packet ⟨⟩; exact framed_dataPacketOf s }
  | keepalive empty due => exact { hs with inPkt_framed := by rintro packet ⟨⟩; rfl }
  | tick => exact { hs with }
  | setupArrives d => exact { hs with }
  | chunkArrives chunk =>
    refine { hs with queue_ok := fun c hc => ?_ }
    rcases List.mem_append.mp hc with hc | hc
    · exact hs.queue_ok c hc
    · rw [List.mem_singleton.mp hc]
      exact harrives chunk rfl
  | hostTakesIn =>
    refine { hs with inPkt_framed := nofun, hostIn_framed := fun packet hp => ?_ }
    rcases List.mem_append.mp hp with hp | hp
    · exact hs.hostIn_framed packet hp
    · exact hs.inPkt_framed packet (Option.mem_toList.mp hp)

end Sys2Proof.Machine

namespace Sys2Proof

open Machine

/-- Settles O3: the step's move keeps the invariant, under which no ingestion overflows the ring. -/
theorem stepKeepsInvariant : Obligations.StepKeepsInvariant := by
  unfold Obligations.StepKeepsInvariant
  intro s hs
  obtain ⟨rest, hrest, ⟨u, new, phase, hstep, hmoves⟩ | ⟨-, hfull, -⟩⟩ := step_moves s
  · refine ⟨_, hstep, (hmoves.inv (fun chunk hchunk => ?_) (hs.with_turns hrest)).with_phase phase⟩
    exact of_decide_eq_true (hs.turns_ok _ (chunkArrives_mem_turns hchunk))
  · exact absurd hfull hs.not_overflows

end Sys2Proof
end

section
/-! The decoder on the encodings (30_encoding.md sections 1 to 3): the fields of a descriptor that the encoder builds, then
each row read back by the equations of its sub-decoder. -/
namespace Sys2Proof

variable {p : Params} {i : Instr}

section
variable (dirIn : Bool) (type : BitVec 2) (recipient : BitVec 5) (code valueL valueH indexL : Byte) (length : Half)

@[simp] theorem dirIn_descOf :
    (descOf (requestType dirIn type recipient) code valueL valueH indexL length).dirIn = dirIn := by
  have hbit : ∀ d t r, (requestType d t r).getLsbD 7 = d := by decide
  exact hbit dirIn type recipient

@[simp] theorem reqType_descOf :
    (descOf (requestType dirIn type recipient) code valueL valueH indexL length).reqType = type := by
  have hbits : ∀ d t r, (requestType d t r).extractLsb' 5 2 = t := by decide
  exact hbits dirIn type recipient

@[simp] theorem recipient_descOf :
    (descOf (requestType dirIn type recipient) code valueL valueH indexL length).recipient = recipient :=
  BitVec.extractLsb'_append_eq_right

@[simp] theorem bRequest_descOf (first : Byte) :
    (descOf first code valueL valueH indexL length).bRequest = code := rfl

@[simp] theorem wValueL_descOf (first : Byte) :
    (descOf first code valueL valueH indexL length).wValueL = valueL := rfl

@[simp] theorem wValueH_descOf (first : Byte) :
    (descOf first code valueL valueH indexL length).wValueH = valueH := rfl

@[simp] theorem wIndexL_descOf (first : Byte) :
    (descOf first code valueL valueH indexL length).wIndexL = indexL := rfl

@[simp] theorem wLength_descOf (first : Byte) :
    (descOf first code valueL valueH indexL length).wLength = length := by
  have hjoin : length.extractLsb' 8 8 ++ length.extractLsb' 0 8 = length.extractLsb' 0 16 :=
    BitVec.extractLsb'_append_extractLsb'_eq_extractLsb' (by rfl)
  exact hjoin.trans BitVec.extractLsb'_eq_self

end

/-- A request is read back from its descriptor. -/
theorem decodeSetup_of_encodeSetup {d : SetupDesc} (hp : p.wf = true) (hi : wellFormed p i = true)
    (h : encodeSetup p i = some d) : decodeSetup p d = i := by
  cases i with
  | classAny => cases h; rfl
  | reservedTypeAny => cases h; rfl
  | start =>
    cases h
    rw [decodeSetup_vendor (reqType_descOf ..), decodeVendor_out (dirIn_descOf ..)]
    exact if_pos rfl
  | vendorOutOther code =>
    cases h
    rw [decodeSetup_vendor (reqType_descOf ..), decodeVendor_out (dirIn_descOf ..)]
    exact if_neg (of_decide_eq_true hi)
  | readConfig indexL length =>
    cases h
    rw [decodeSetup_vendor (reqType_descOf ..), decodeVendor_readConfig (dirIn_descOf ..) rfl, wLength_descOf]
    rfl
  | changeSpeed =>
    cases h
    rw [decodeSetup_vendor (reqType_descOf ..), decodeVendor_changeSpeed hp (dirIn_descOf ..) rfl]
  | changeMaster =>
    cases h
    rw [decodeSetup_vendor (reqType_descOf ..), decodeVendor_changeMaster hp (dirIn_descOf ..) rfl]
  | changeMode =>
    cases h
    rw [decodeSetup_vendor (reqType_descOf ..), decodeVendor_changeMode hp (dirIn_descOf ..) rfl]
  | getVersion =>
    cases h
    rw [decodeSetup_vendor (reqType_descOf ..), decodeVendor_getVersion hp (dirIn_descOf ..) rfl]
  | vendorInOther code length =>
    cases h
    rw [decodeSetup_vendor (reqType_descOf ..), decodeVendor_inOther (dirIn_descOf ..) (of_decide_eq_true hi),
      wLength_descOf]
    rfl
  | getConfiguration => cases h; rfl
  | getInterface => cases h; rfl
  | getDescriptorDevice => cases h; rfl
  | getDescriptorConfiguration => cases h; rfl
  | getDescriptorString index =>
    cases h
    rw [decodeSetup_getDescriptor (reqType_descOf ..) (dirIn_descOf ..) rfl]
    simp [decodeGetDescriptor]
  | getDescriptorDeviceQualifier => cases h; rfl
  | getDescriptorOtherSpeed => cases h; rfl
  | getDescriptorOther type =>
    cases h
    rw [decodeSetup_getDescriptor (reqType_descOf ..) (dirIn_descOf ..) rfl]
    exact decodeGetDescriptor_other (of_decide_eq_true hi)
  | getStatusDevice => cases h; rfl
  | getStatusInterface => cases h; rfl
  | getStatusEndpoint a =>
    cases h
    rw [decodeSetup_getStatus (reqType_descOf ..) (dirIn_descOf ..) rfl]
    simp [decodeGetStatus]
  | getStatusOther recipient =>
    cases h
    have hother : 3 ≤ recipient.toNat := of_decide_eq_true hi
    rw [decodeSetup_getStatus (reqType_descOf ..) (dirIn_descOf ..) rfl, decodeGetStatus_other (by simpa using hother),
      recipient_descOf]
  | synchFrame => cases h; rfl
  | standardInOther code =>
    cases h
    rw [decodeSetup_standardIn (reqType_descOf ..) (dirIn_descOf ..)]
    exact decodeStandardIn_other (of_decide_eq_true hi)
  | setConfiguration value =>
    cases h
    rw [decodeSetup_standardOut (reqType_descOf ..) (dirIn_descOf ..)]
    simp [decodeStandardOut]
  | setInterface value =>
    cases h
    rw [decodeSetup_standardOut (reqType_descOf ..) (dirIn_descOf ..)]
    simp [decodeStandardOut]
  | clearFeatureEndpoint selector a =>
    cases h
    rw [decodeSetup_clearFeature (reqType_descOf ..) (dirIn_descOf ..) rfl]
    simp [decodeClearFeature]
  | setFeatureEndpoint selector a =>
    cases h
    rw [decodeSetup_setFeature (reqType_descOf ..) (dirIn_descOf ..) rfl]
    simp [decodeSetFeature]
  | clearFeatureDevice selector =>
    cases h
    rw [decodeSetup_clearFeature (reqType_descOf ..) (dirIn_descOf ..) rfl]
    simp [decodeClearFeature]
  | setFeatureDevice selector =>
    cases h
    rw [decodeSetup_setFeature (reqType_descOf ..) (dirIn_descOf ..) rfl]
    simp [decodeSetFeature]
  | clearFeatureOther recipient =>
    cases h
    obtain ⟨hdevice, hendpoint⟩ : recipient ≠ 0 ∧ recipient ≠ 2 := of_decide_eq_true hi
    rw [decodeSetup_clearFeature (reqType_descOf ..) (dirIn_descOf ..) rfl,
      decodeClearFeature_other (by simpa using hdevice) (by simpa using hendpoint), recipient_descOf]
  | setFeatureOther recipient =>
    cases h
    obtain ⟨hdevice, hendpoint⟩ : recipient ≠ 0 ∧ recipient ≠ 2 := of_decide_eq_true hi
    rw [decodeSetup_setFeature (reqType_descOf ..) (dirIn_descOf ..) rfl,
      decodeSetFeature_other (by simpa using hdevice) (by simpa using hendpoint), recipient_descOf]
  | setAddress => cases h; rfl
  | setDescriptor => cases h; rfl
  | standardOutOther code =>
    cases h
    rw [decodeSetup_standardOut (reqType_descOf ..) (dirIn_descOf ..)]
    exact decodeStandardOut_other (of_decide_eq_true hi)
  | _ => cases h

/-- A data-plane byte is read back in a mode in which it is read as its command (R91, R93, R104). -/
theorem decodeByte_of_encodeByte {count : Six} {w : Bool} {b : Byte} (hr : readsAs i (.stream count w) = true)
    (h : encodeByte i = some b) : decodeByte count w b = i := by
  cases i with
  | bbw l => cases h; rw [of_decide_eq_true hr, decodeByte_bitBang]; rfl
  | bbr l => cases h; rw [of_decide_eq_true hr, decodeByte_bitBang]; rfl
  | shw n => cases h; rw [of_decide_eq_true hr, decodeByte_bitBang]; rfl
  | shr n => cases h; rw [of_decide_eq_true hr, decodeByte_bitBang]; rfl
  | datw d =>
    cases h
    obtain ⟨hcount, hw⟩ : count ≠ 0 ∧ w = true := by simpa [readsAs] using hr
    rw [decodeByte_shift hcount, if_pos hw]
  | datr d =>
    cases h
    obtain ⟨hcount, hw⟩ : count ≠ 0 ∧ w = false := by simpa [readsAs] using hr
    rw [decodeByte_shift hcount, if_neg (by simp [hw])]
  | _ => cases h

/-- In the stream only data-plane bytes are read as their instruction, in the setup phase only descriptors (R91, R94). -/
theorem readsAs_stream_isSome {count : Six} {w : Bool} (hr : readsAs i (.stream count w) = true) :
    (encodeByte i).isSome = true := by
  have himplies : ((encodeByte i).isSome || !readsAs i (.stream count w)) = true := by cases i <;> rfl
  simpa [hr] using himplies

theorem readsAs_setup_eq_none (hr : readsAs i .setup = true) : encodeByte i = none := by
  have himplies : ((encodeByte i).isNone || !readsAs i .setup) = true := by cases i <;> rfl
  simpa [hr] using himplies

theorem decode_setup_bytes (d : SetupDesc) (rest : List Byte) :
    decode p .setup (d.bytes ++ rest) = .ok (decodeSetup p d, rest) := rfl

/-- Settles O4, by where the bytes are read. -/
theorem decodeOfEncodeGivesBack : Obligations.DecodeOfEncodeGivesBack := by
  unfold Obligations.DecodeOfEncodeGivesBack
  intro p i r bytes rest hp hi hr h
  cases r with
  | stream count w =>
    obtain ⟨b, hb⟩ := Option.isSome_iff_exists.mp (readsAs_stream_isSome hr)
    rw [encode, hb] at h
    cases h
    rw [List.singleton_append, decode, decodeByte_of_encodeByte hr hb]
  | setup =>
    rw [encode, readsAs_setup_eq_none hr] at h
    obtain ⟨d, hd, rfl⟩ := Option.map_eq_some_iff.mp h
    rw [decode_setup_bytes, decodeSetup_of_encodeSetup hp hi hd]

end Sys2Proof
end

section
/-! What a move does to single registers: the packets it submits, the tick flag, `Running`, and the frames of the two
planes (44_packet_framer.md section 3, 10_state.md section 1, 42_vendor_commands.md section 3). -/
namespace Sys2Proof.Machine

variable {s t : State} {i : Instr} {new : List Call}

theorem Handles.no_submit (h : Handles i s t new) (packet : List Byte) : .inSubmit packet ∉ new :=
  fun hmem => Bool.noConfusion (h.calls _ hmem)

/-- A packet is submitted by a data packet from a ring that holds bytes, or by a keepalive, which clears the flag. -/
theorem Moves.submits (h : Moves s i t new) {packet : List Byte} (hmem : .inSubmit packet ∈ new) :
    (i = .dataPacket ∧ 0 < s.pending ∧ packet = dataPacketOf s)
      ∨ (i = .keepalivePacket ∧ s.tickFlag = true ∧ t.tickFlag = false ∧ packet = Config.hdr) := by
  cases h with
  | request pending handles => simp [handles.no_submit] at hmem
  | ingestion waits pc atMost interprets => simp [interprets.samples.no_submit] at hmem
  | dataPacket pending => exact .inl ⟨rfl, pending, by simpa using hmem⟩
  | keepalive empty due => exact .inr ⟨rfl, due, rfl, by simpa using hmem⟩
  | _ => simp [countQuery] at hmem

/-- The flag is set by a tick, or by the data packet that arms it (R267, R226). -/
theorem Moves.tickFlag_set (h : Moves s i t new) (hs : s.tickFlag = false) (ht : t.tickFlag = true) :
    i = .tick ∨ (i = .dataPacket ∧ 0 < s.pending) := by
  cases h with
  | request pending handles => exact absurd (hs.symm.trans (handles.tickFlag.symm.trans ht)) nofun
  | ingestion waits pc atMost interprets => exact absurd (hs.symm.trans (interprets.tickFlag.symm.trans ht)) nofun
  | dataPacket pending => exact .inr ⟨rfl, pending⟩
  | keepalive empty due => cases ht
  | tick => exact .inl rfl
  | _ => exact absurd (hs.symm.trans ht) nofun

/-- `Running` is written by START alone, in the setup step (R21). -/
theorem Moves.running_ne (h : Moves s i t new) (hne : t.running ≠ s.running) :
    i = .setupStep ∧ s.setupPending = true ∧ decodeSetup s.params s.setupDesc = .start ∧ t.running = true := by
  cases h with
  | request pending handles =>
    obtain ⟨hstart, hset⟩ := handles.running.resolve_left hne
    exact ⟨rfl, pending, hstart, hset⟩
  | ingestion waits pc atMost interprets =>
    rw [interprets.frame.1] at hne
    exact absurd rfl hne
  | _ => exact absurd rfl hne

/-- A payload of at least one byte makes a packet longer than its header. -/
theorem two_lt_length_dataPacketOf (hp : 0 < s.pending) : 2 < (dataPacketOf s).length := by
  have hpayload : 0 < payloadLength s := lt_min hp (by decide)
  simpa [dataPacketOf, Config.hdr, ringRun] using hpayload

theorem framed_iff (packet : List Byte) :
    framed packet = true ↔ packet.take 2 = [0x31, 0x60] ∧ packet.length ≤ 64 := by
  rw [framed, Bool.and_eq_true, beq_iff_eq, decide_eq_true_eq]
  rfl

theorem two_le_length_of_framed {packet : List Byte} (h : framed packet = true) : 2 ≤ packet.length := by
  have htake := congrArg List.length ((framed_iff packet).mp h).1
  simp only [List.length_take, List.length_cons, List.length_nil] at htake
  omega

/-- The descriptor that is decoded to START (R180, R181). -/
theorem fields_of_decodeSetup_eq_start {p : Params} {d : SetupDesc} (h : decodeSetup p d = .start) :
    d.reqType = 2 ∧ d.dirIn = false ∧ d.bRequest = p.vrStart := by
  rcases reqType_cases d.reqType with htype | htype | htype | htype
  · revert h
    cases hdir : d.dirIn
    · rw [decodeSetup_standardOut htype hdir]
      simp only [decodeStandardOut, decodeClearFeature, decodeSetFeature]
      split_ifs <;> exact nofun
    · rw [decodeSetup_standardIn htype hdir]
      simp only [decodeStandardIn, decodeGetDescriptor, decodeGetStatus]
      split_ifs <;> exact nofun
  · simp [decodeSetup, htype] at h
  · rw [decodeSetup_vendor htype] at h
    cases hdir : d.dirIn
    · rw [decodeVendor_out hdir] at h
      exact ⟨htype, rfl, by_contra fun hcode => by simp [hcode] at h⟩
    · revert h
      simp only [decodeVendor, hdir, if_true]
      split_ifs <;> exact nofun
  · simp [decodeSetup, htype] at h

/-- A request writes no register of the data plane (R190). -/
theorem Handles.keepsDataPlane (h : Handles i s t new) :
    t.ring = s.ring ∧ t.rdCursor = s.rdCursor ∧ t.pending = s.pending ∧ t.writeOnly = s.writeOnly
      ∧ t.pendingShiftCount = s.pendingShiftCount ∧ t.pc = s.pc ∧ t.outChunk = s.outChunk := by
  rw [h.state_eq]
  exact ⟨rfl, rfl, rfl, rfl, rfl, rfl, rfl⟩

/-- A packet or an ingestion writes no register of the control plane (R211, R212, R226, R227). -/
theorem Moves.keepsControl (h : Moves s i t new) (hi : i ∈ [Instr.ingest, .dataPacket, .keepalivePacket]) :
    t.curConfig = s.curConfig ∧ t.curAlt = s.curAlt ∧ t.speedMode = s.speedMode ∧ t.jtagMaster = s.jtagMaster
      ∧ t.syncMode = s.syncMode ∧ t.setupPending = s.setupPending ∧ t.setupDesc = s.setupDesc ∧ t.ep0 = s.ep0
      ∧ t.epStall = s.epStall ∧ t.epToggle = s.epToggle ∧ t.hostCtl = s.hostCtl ∧ t.running = s.running := by
  cases h with
  | request pending handles => simp at hi
  | ingestion waits pc atMost interprets =>
    rw [interprets.frame.1]
    exact ⟨rfl, rfl, rfl, rfl, rfl, rfl, rfl, rfl, rfl, rfl, rfl, rfl⟩
  | setupArrives d => simp at hi
  | _ => exact ⟨rfl, rfl, rfl, rfl, rfl, rfl, rfl, rfl, rfl, rfl, rfl, rfl⟩

/-- The engine's instructions move, where they answer a next state. -/
theorem moves_of_engine (hi : i ∈ [Instr.ingest, .dataPacket, .keepalivePacket]) (h : exec i s = .next t) :
    ∃ new, Moves s i t new := by
  have hmoves : (∃ u new, exec i s = .next u ∧ Moves s i u new) ∨ ∃ r, exec i s = .fault r := by
    revert i
    simp only [List.forall_mem_cons]
    exact ⟨fun _ => (exec_ingest_moves s).imp_right fun h => ⟨_, h.2⟩, fun _ => .inl (exec_dataPacket_moves s),
      fun _ => .inl (exec_keepalivePacket_moves s), nofun⟩
  obtain ⟨u, new, hu, hmoves⟩ | ⟨r, hfault⟩ := hmoves
  · obtain rfl : u = t := Host.Outcome.next.inj (hu.symm.trans h)
    exact ⟨new, hmoves⟩
  · cases hfault.symm.trans h

end Sys2Proof.Machine

namespace Sys2Proof

open Machine

/-- Settles O25: a data packet has a payload and the form of R97, and every other packet is the keepalive's header. -/
theorem everyPacketIsFramed : Obligations.EveryPacketIsFramed := by
  unfold Obligations.EveryPacketIsFramed
  intro s t new packet hstep htrace hmem
  obtain ⟨rest, i, u, calls, phase, -, hi, rfl, hmoves⟩ := moves_of_step hstep
  obtain rfl : calls = new := List.append_cancel_left (hmoves.trace.symm.trans htrace)
  rcases hmoves.submits hmem with ⟨-, hp, rfl⟩ | ⟨hkeepalive, -, -, rfl⟩
  · have hframed := framed_dataPacketOf { s with turns := rest }
    obtain ⟨hheader, hmost⟩ := (framed_iff _).mp hframed
    exact ⟨hheader, two_le_length_of_framed hframed, hmost, fun hlen => absurd hlen (two_lt_length_dataPacketOf hp).ne'⟩
  · exact ⟨rfl, le_rfl, by decide, fun _ => hi.trans hkeepalive⟩

/-- Settles O26: with nothing pending no data packet is made, so the packet is the keepalive's and the flag the tick's. -/
theorem idleKeepaliveAtMostOncePerTick : Obligations.IdleKeepaliveAtMostOncePerTick := by
  unfold Obligations.IdleKeepaliveAtMostOncePerTick
  intro s t new hstep hempty htrace
  obtain ⟨rest, i, u, calls, phase, -, hi, rfl, hmoves⟩ := moves_of_step hstep
  obtain rfl : calls = new := List.append_cancel_left (hmoves.trace.symm.trans htrace)
  refine ⟨fun ⟨packet, hmem⟩ => ?_, fun hs ht => ?_⟩
  · rcases hmoves.submits hmem with ⟨-, hp, -⟩ | ⟨-, hdue, hcleared, -⟩
    · exact absurd hempty hp.ne'
    · exact ⟨hdue, hcleared⟩
  · rcases hmoves.tickFlag_set hs ht with htick | ⟨-, hp⟩
    · exact hi.trans htick
    · exact absurd hempty hp.ne'

/-- Settles O30: a step moves, or an ingestion overflows the ring. -/
theorem stepStopsOnlyOnRingOverflow : Obligations.StepStopsOnlyOnRingOverflow := by
  unfold Obligations.StepStopsOnlyOnRingOverflow
  intro s
  obtain ⟨rest, -, ⟨u, new, phase, hstep, -⟩ | ⟨hphase, ⟨hr, -, hfull⟩, hstep⟩⟩ := step_moves s
  · rw [hstep]
    exact ⟨nofun, nofun⟩
  · rw [hstep]
    refine ⟨nofun, fun r hr' => ⟨(Host.Outcome.fault.inj hr').symm, hphase, hr, hfull⟩⟩

/-- Settles O52: `Running` is written by the request that the descriptor of START is decoded to. -/
theorem runningSetOnlyByStart : Obligations.RunningSetOnlyByStart := by
  unfold Obligations.RunningSetOnlyByStart
  intro s t hstep hne
  obtain ⟨rest, i, u, new, phase, -, hi, rfl, hmoves⟩ := moves_of_step hstep
  obtain ⟨hsetup, hpending, hstart, hset⟩ := hmoves.running_ne hne
  exact ⟨hset, hi.trans hsetup, hpending, fields_of_decodeSetup_eq_start hstart⟩

/-- Settles O55: no move writes them. -/
theorem fixedDataNeverChanges : Obligations.FixedDataNeverChanges := by
  unfold Obligations.FixedDataNeverChanges
  intro s t hstep
  obtain ⟨rest, i, u, new, phase, -, -, rfl, hmoves⟩ := moves_of_step hstep
  exact hmoves.fixedData

/-- Settles O57: a request writes the registers that `Handles` names, and of `Running` only START's value. -/
theorem controlLeavesDataPlaneAlone : Obligations.ControlLeavesDataPlaneAlone := by
  unfold Obligations.ControlLeavesDataPlaneAlone
  intro s t hexec
  cases hp : s.setupPending with
  | false =>
    obtain rfl : s = t := Host.Outcome.next.inj ((exec_setupStep_idle hp).symm.trans hexec)
    exact ⟨rfl, rfl, rfl, rfl, rfl, rfl, rfl, rfl, fun _ => rfl, id⟩
  | true =>
    obtain ⟨u, new, hu, -, hhandles⟩ := exec_setupStep hp
    obtain rfl := Host.Outcome.next.inj (hu.symm.trans hexec)
    obtain ⟨hring, hcursor, hpending, hmode, hcount, hpc, hchunk⟩ := hhandles.keepsDataPlane
    refine ⟨hring, hcursor, hpending, hhandles.tickFlag, hmode, hcount, hpc, hchunk, ringRead_congr hring, fun hr => ?_⟩
    rcases hhandles.running with hsame | ⟨-, hset⟩
    · exact hsame.trans hr
    · exact hset

/-- Settles O58, by the moves of the three instructions. -/
theorem dataPlaneLeavesControlAlone : Obligations.DataPlaneLeavesControlAlone := by
  unfold Obligations.DataPlaneLeavesControlAlone
  intro i s t hi hexec
  obtain ⟨new, hmoves⟩ := moves_of_engine hi hexec
  exact hmoves.keepsControl hi

end Sys2Proof
end

section
/-! The table of R211: the line calls, the ring bytes and the registers of each data-plane command, and how far a byte or
a chunk raises `Pending` (43_dataplane_interpreter.md R210, R211). -/
namespace Sys2Proof.Machine

variable {s t : State} {i : Instr}

theorem isDataCommand_decodeByte (c : Six) (w : Bool) (b : Byte) : isDataCommand (decodeByte c w b) = true := by
  unfold decodeByte decodeBitBang decodeShift
  split_ifs <;> rfl

/-- How many ring bytes a command appends (R211). -/
def appends : Instr → Nat
  | .bbr _ => 1
  | .datr _ => 1
  | _ => 0

/-- A command makes line calls of these numbers, raises `Pending` by some bytes, and writes no register but those of its
row (R211). -/
def MeetsRow (calls : Nat × Nat × Nat × Nat) (bytes : Nat) (writesMode writesCount : Bool) (s t : State) : Prop :=
  ∃ new, t.trace = s.trace ++ new ∧ lineCalls new = calls ∧ t.pending = s.pending + bytes
    ∧ (bytes = 0 → t.ring = s.ring) ∧ (writesMode = false → t.writeOnly = s.writeOnly)
    ∧ (writesCount = false → t.pendingShiftCount = s.pendingShiftCount)
    ∧ t = { s with writeOnly := t.writeOnly, pendingShiftCount := t.pendingShiftCount, pending := t.pending,
                   ring := t.ring, trace := t.trace, lineIn := t.lineIn, draws := t.draws }

theorem MeetsRow.pending {calls : Nat × Nat × Nat × Nat} {bytes : Nat} {writesMode writesCount : Bool}
    (h : MeetsRow calls bytes writesMode writesCount s t) : t.pending = s.pending + bytes := by
  obtain ⟨new, -, -, hpending, -⟩ := h
  exact hpending

theorem meetsRow_bbw {l : Six} (h : exec (.bbw l) s = .next t) : MeetsRow (1, 0, 0, 0) 0 true false s t := by
  cases (exec_bbw (count_eq_zero_of_inBitBang_next h) l).symm.trans h
  exact ⟨[.setLines l], rfl, rfl, rfl, fun _ => rfl, nofun, fun _ => rfl, rfl⟩

/-- BBR answers a next state only on a ring with room. -/
theorem meetsRow_bbr {l : Six} (h : exec (.bbr l) s = .next t) : MeetsRow (1, 1, 0, 0) 1 true false s t := by
  obtain ⟨p, lineIn, draws, hnext, hfault, -⟩ := exec_bbr (count_eq_zero_of_inBitBang_next h) l
  rcases Nat.lt_or_ge s.pending Config.cap with hroom | hfull
  · cases (hnext hroom).symm.trans h
    exact ⟨[.setLines l, .getState p], rfl, rfl, rfl, nofun, nofun, fun _ => rfl, rfl⟩
  · cases (hfault hfull).symm.trans h

theorem meetsRow_shw {n : Six} (h : exec (.shw n) s = .next t) : MeetsRow (0, 0, 0, 0) 0 true true s t := by
  cases (exec_shw (count_eq_zero_of_inBitBang_next h) n).symm.trans h
  exact ⟨[], (List.append_nil _).symm, rfl, rfl, fun _ => rfl, nofun, nofun, rfl⟩

theorem meetsRow_shr {n : Six} (h : exec (.shr n) s = .next t) : MeetsRow (0, 0, 0, 0) 0 true true s t := by
  cases (exec_shr (count_eq_zero_of_inBitBang_next h) n).symm.trans h
  exact ⟨[], (List.append_nil _).symm, rfl, rfl, fun _ => rfl, nofun, nofun, rfl⟩

theorem meetsRow_datw {d : Byte} (h : exec (.datw d) s = .next t) : MeetsRow (0, 0, 8, 0) 0 false true s t := by
  obtain ⟨hcount, hw⟩ := mode_of_inShift_next h
  cases (exec_datw hcount hw d).symm.trans h
  refine ⟨_, rfl, ?_, rfl, fun _ => rfl, fun _ => rfl, nofun, rfl⟩
  rw [lineCalls_map_shiftOut, shiftOrder_length]

/-- DATR answers a next state only on a ring with room. -/
theorem meetsRow_datr {d : Byte} (h : exec (.datr d) s = .next t) : MeetsRow (0, 0, 0, 8) 1 false true s t := by
  obtain ⟨hcount, hw⟩ := mode_of_inShift_next h
  obtain ⟨answers, lineIn, draws, hlen, hnext, hfault, -⟩ := exec_datr hcount hw d
  rcases Nat.lt_or_ge s.pending Config.cap with hroom | hfull
  · cases (hnext hroom).symm.trans h
    refine ⟨_, rfl, ?_, rfl, nofun, fun _ => rfl, nofun, rfl⟩
    rw [lineCalls_zipWith_shiftInOut d (hlen.trans (shiftOrder_length _).symm), shiftOrder_length]
  · cases (hfault hfull).symm.trans h

/-- A command of the stream appends the bytes of its row. -/
theorem pending_dataCommand (hi : isDataCommand i = true) (h : exec i s = .next t) :
    t.pending = s.pending + appends i := by
  cases i with
  | bbw l => exact (meetsRow_bbw h).pending
  | bbr l => exact (meetsRow_bbr h).pending
  | shw n => exact (meetsRow_shw h).pending
  | shr n => exact (meetsRow_shr h).pending
  | datw d => exact (meetsRow_datw h).pending
  | datr d => exact (meetsRow_datr h).pending
  | _ => cases hi

/-- Ingesting the oldest chunk appends at most one byte for each of its bytes (R210). -/
theorem pending_ingest {chunk : List Byte} {queue : List (List Byte)} (hq : s.outQueue = chunk :: queue)
    (h : exec .ingest s = .next t) : s.pending ≤ t.pending ∧ t.pending ≤ s.pending + chunk.length := by
  obtain ⟨new, hmoves⟩ := moves_of_engine (by simp) h
  cases hmoves with
  | nothing => exact ⟨le_rfl, Nat.le_add_right _ _⟩
  | asksCount => exact ⟨le_rfl, Nat.le_add_right _ _⟩
  | asksBusy => exact ⟨le_rfl, Nat.le_add_right _ _⟩
  | ingestion waits pc atMost interprets =>
    obtain ⟨rfl, -⟩ := List.cons.inj (hq.symm.trans waits)
    rw [interprets.frame.1]
    exact ⟨Nat.le_add_right _ _, Nat.add_le_add_left atMost _⟩

end Sys2Proof.Machine

namespace Sys2Proof

open Machine

/-- Settles O14, command by command. -/
theorem lineCallsPerCommand : Obligations.LineCallsPerCommand := by
  unfold Obligations.LineCallsPerCommand
  intro i s t calls bytes writesMode writesCount htable hexec
  cases i with
  | bbw l =>
    obtain ⟨rfl, rfl, rfl, rfl⟩ := htable
    exact meetsRow_bbw hexec
  | bbr l =>
    obtain ⟨rfl, rfl, rfl, rfl⟩ := htable
    exact meetsRow_bbr hexec
  | shw n =>
    obtain ⟨rfl, rfl, rfl, rfl⟩ := htable
    exact meetsRow_shw hexec
  | shr n =>
    obtain ⟨rfl, rfl, rfl, rfl⟩ := htable
    exact meetsRow_shr hexec
  | datw d =>
    obtain ⟨rfl, rfl, rfl, rfl⟩ := htable
    exact meetsRow_datw hexec
  | datr d =>
    obtain ⟨rfl, rfl, rfl, rfl⟩ := htable
    exact meetsRow_datr hexec
  | _ => cases htable

/-- Settles O16, by the rows of the commands and by what an ingestion appends. -/
theorem chunkRaisesPendingByAtMostItsLength : Obligations.ChunkRaisesPendingByAtMostItsLength := by
  unfold Obligations.ChunkRaisesPendingByAtMostItsLength
  refine ⟨fun s t b hexec => ?_, fun s t chunk queue hq hexec => pending_ingest hq hexec⟩
  have hpending := pending_dataCommand (isDataCommand_decodeByte _ _ b) hexec
  rw [hpending]
  cases decodeByte s.pendingShiftCount s.writeOnly b <;> rfl

end Sys2Proof
end

section
/-! The pseudo-instructions SHIFTR and SHIFTW (30_encoding.md section 6): the mode switch, then a run of byte-shift bytes
that uses the count up. -/
namespace Sys2Proof.Machine

variable {s : State} {ds : List Byte} {queue : List (List Byte)}

/-- A byte of a run that is read back raises `Pending` by one (R205). -/
theorem interpretByte_reads (b : Byte) (hcount : s.pendingShiftCount ≠ 0) (hw : s.writeOnly = false)
    (hroom : s.pending < Config.cap) :
    ∃ t new, interpretByte b s = .next t ∧ Shifts 1 s t new ∧ t.pending = s.pending + 1 := by
  obtain ⟨t, new, hexec, hshift⟩ := interpretByte_shifts b hcount hroom
  refine ⟨t, new, hexec, hshift, ?_⟩
  rw [interpretByte_eq, decodeByte_shift hcount, hw] at hexec
  obtain ⟨u, hu, ht⟩ := andThen_eq_next.mp hexec
  cases ht
  exact pending_dataCommand rfl hu

/-- A run of bytes that are read back raises `Pending` by one for each. -/
theorem interpretBytes_reads (k : Nat) (s : State) (hw : s.writeOnly = false) (hchunk : s.pc + k ≤ s.outChunk.length)
    (hcount : k ≤ s.pendingShiftCount.toNat) (hroom : s.pending + k ≤ Config.cap) :
    ∃ t, interpretBytes k s = .next t ∧ t.pending = s.pending + k := by
  induction k generalizing s with
  | zero => exact ⟨s, rfl, rfl⟩
  | succ k ih =>
    have hbyte : fetchByte s = some (s.outChunk[s.pc]'(by omega)) := List.getElem?_eq_getElem _
    have hne : s.pendingShiftCount ≠ 0 := fun h => by simp [h] at hcount
    obtain ⟨t, new, ht, hshift, hp⟩ := interpretByte_reads (s.outChunk[s.pc]'(by omega)) hne hw (by omega)
    obtain ⟨u, hu, hup⟩ := ih t (hshift.writeOnly.trans hw) (by rw [hshift.outChunk, hshift.pc]; omega)
      (by rw [hshift.count]; omega) (by omega)
    exact ⟨u, by simp only [interpretBytes, hbyte, ht, andThen_next, hu], by omega⟩

/-- A run of bytes that are read back makes its shift calls and samples one result for each byte. -/
theorem interpretBytes_reads_results (k : Nat) (s : State) (hw : s.writeOnly = false)
    (hchunk : s.pc + k ≤ s.outChunk.length) (hcount : k ≤ s.pendingShiftCount.toNat)
    (hroom : s.pending + k ≤ Config.cap) :
    ∃ t new vs, interpretBytes k s = .next t ∧ Shifts k s t new ∧ Interprets s t new vs ∧ vs.length = k := by
  obtain ⟨t, new, ht, hshift⟩ := interpretBytes_shifts k s hchunk hcount hroom
  obtain ⟨u, hu, hpending⟩ := interpretBytes_reads k s hw hchunk hcount hroom
  obtain rfl : u = t := Host.Outcome.next.inj (hu.symm.trans ht)
  rcases interpretBytes_spec k s with ⟨v, calls, vs, hv, -, -, hinterprets⟩ | ⟨-, hfault⟩
  · obtain rfl : v = u := Host.Outcome.next.inj (hv.symm.trans ht)
    have htrace : v.trace = s.trace ++ calls := by rw [hinterprets.state_eq]
    obtain rfl : calls = new := List.append_cancel_left (htrace.symm.trans hshift.trace)
    rw [hinterprets.frame.1] at hpending
    exact ⟨v, calls, vs, ht, hshift, hinterprets, Nat.add_left_cancel hpending⟩
  · cases hfault.symm.trans ht

/-- The calls of a byte that is shifted out alone (R206). -/
def shiftOutCalls (p : Params) (d : Byte) : List Call := (shiftOrder p).map (fun k => .shiftOut (d.getLsbD k))

/-- A run of bytes that are shifted out alone: their bits in shift order, and the count less their number (R206, R207). -/
theorem interpretBytes_writes (ds : List Byte) (s : State) (hw : s.writeOnly = true) (hchunk : s.outChunk.drop s.pc = ds)
    (hcount : ds.length ≤ s.pendingShiftCount.toNat) :
    interpretBytes ds.length s = .next { s with
      pc := s.pc + ds.length, pendingShiftCount := s.pendingShiftCount - BitVec.ofNat 6 ds.length
      trace := s.trace ++ ds.flatMap (shiftOutCalls s.params) } := by
  induction ds generalizing s with
  | nil => simp [interpretBytes]
  | cons d ds ih =>
    rw [List.length_cons] at hcount ⊢
    have hbyte : fetchByte s = some d := by
      have hhead : (s.outChunk.drop s.pc)[0]? = some d := by rw [hchunk]; rfl
      simpa [fetchByte] using hhead
    have hrest : s.outChunk.drop (s.pc + 1) = ds := by rw [← List.drop_drop, hchunk]; rfl
    have hne : s.pendingShiftCount ≠ 0 := fun h => by simp [h] at hcount
    have hleft : ds.length ≤ (s.pendingShiftCount - 1).toNat := by rw [count_toNat_sub_one hne]; omega
    have hfirst : interpretByte d s = .next { s with
        pc := s.pc + 1, pendingShiftCount := s.pendingShiftCount - 1, trace := s.trace ++ shiftOutCalls s.params d } := by
      rw [interpretByte_eq, decodeByte_shift hne, if_pos hw, exec_datw hne hw]
      rfl
    simp only [interpretBytes, hbyte, hfirst, andThen_next]
    rw [ih { s with pc := s.pc + 1, pendingShiftCount := s.pendingShiftCount - 1
                    trace := s.trace ++ shiftOutCalls s.params d } hw hrest hleft]
    have hused : s.pendingShiftCount - 1#6 - BitVec.ofNat 6 ds.length
        = s.pendingShiftCount - BitVec.ofNat 6 (ds.length + 1) := by
      bv_omega
    simp [hused, Nat.add_assoc, Nat.add_comm 1]

/-- A chunk of its own that begins with a bit-bang byte, with the gate open: that byte, then the others. -/
theorem exec_ingest_cons {b : Byte} {i : Instr} (hr : s.running = true) (hp : s.pending < Config.gate)
    (hq : s.outQueue = (b :: ds) :: queue) (hi : decodeByte s.pendingShiftCount s.writeOnly b = i) :
    exec .ingest s = andThen (exec i (chunkTaken (b :: ds) queue s))
      (fun t => interpretBytes ds.length { t with pc := t.pc + 1 }) := by
  subst hi
  rw [exec_ingest_taken hr hq hp, List.length_cons, interpretBytes]
  have hbyte : fetchByte (chunkTaken (b :: ds) queue s) = some b := rfl
  simp only [hbyte, interpretByte_eq, andThen_assoc, andThen_next]
  rfl

theorem Samples.results_new {p : Params} {new : List Call} {vs : List Byte} (h : Samples p new vs) :
    results p new = vs := by
  simpa [results] using h.results_eq []

/-- A length that fits the count is read back from it. -/
theorem toNat_ofNat_length (h : ds.length ≤ 63) : (BitVec.ofNat 6 ds.length).toNat = ds.length := by
  rw [BitVec.toNat_ofNat, Nat.mod_eq_of_lt (by omega)]

/-- The state behind the mode switch of a chunk that shifts `n` bytes. -/
def shiftStarted (writeOnly : Bool) (n : Nat) (chunk : List Byte) (queue : List (List Byte)) (s : State) : State :=
  { chunkTaken chunk queue s with writeOnly := writeOnly, pendingShiftCount := BitVec.ofNat 6 n, pc := 1 }

section
variable (hr : s.running = true) (hmode : s.pendingShiftCount = 0) (hp : s.pending < Config.gate)
include hr hmode hp

theorem exec_ingest_pseudoShiftW (hq : s.outQueue = pseudoShiftW ds :: queue) :
    exec .ingest s = interpretBytes ds.length (shiftStarted true ds.length (pseudoShiftW ds) queue s) := by
  have hi : decodeByte s.pendingShiftCount s.writeOnly (2#2 ++ BitVec.ofNat 6 ds.length)
      = .shw (BitVec.ofNat 6 ds.length) := by
    rw [hmode, decodeByte_bitBang]
    rfl
  rw [exec_ingest_cons hr hp hq hi, exec_shw (by exact hmode), andThen_next]
  rfl

theorem exec_ingest_pseudoShiftR (hq : s.outQueue = pseudoShiftR ds :: queue) :
    exec .ingest s = interpretBytes ds.length (shiftStarted false ds.length (pseudoShiftR ds) queue s) := by
  have hi : decodeByte s.pendingShiftCount s.writeOnly (3#2 ++ BitVec.ofNat 6 ds.length)
      = .shr (BitVec.ofNat 6 ds.length) := by
    rw [hmode, decodeByte_bitBang]
    rfl
  rw [exec_ingest_cons hr hp hq hi, exec_shr (by exact hmode), andThen_next]
  rfl

end

end Sys2Proof.Machine

namespace Sys2Proof

open Machine

/-- Settles O19: the mode switch, then the run of bytes shifted out, which uses the count up. -/
theorem shiftWriteSequenceSendsBits : Obligations.ShiftWriteSequenceSendsBits := by
  unfold Obligations.ShiftWriteSequenceSendsBits
  intro s ds queue hr hmode hp hmin hmax hq
  rw [exec_ingest_pseudoShiftW hr hmode hp hq, interpretBytes_writes ds _ rfl rfl (toNat_ofNat_length hmax).ge]
  simp [shiftStarted, chunkTaken, pseudoShiftW, Nat.add_comm 1]
  rfl

/-- Settles O18: the mode switch, then the run of bytes read back; each raises `Pending` by one, so each has its result. -/
theorem shiftReadSequenceReturnsBytes : Obligations.ShiftReadSequenceReturnsBytes := by
  unfold Obligations.ShiftReadSequenceReturnsBytes
  intro s ds queue hr hmode hp hmin hmax hq
  have hroom : s.pending + ds.length ≤ Config.cap := by
    simp only [Config.cap]
    omega
  have hcount := toNat_ofNat_length hmax
  obtain ⟨t, new, vs, ht, hshift, hinterprets, hlen⟩ := interpretBytes_reads_results ds.length
    (shiftStarted false ds.length (pseudoShiftR ds) queue s) rfl (Nat.add_comm 1 _).le hcount.ge hroom
  have hused : t.pendingShiftCount.toNat = 0 := hshift.count.trans (Nat.sub_eq_zero_of_le hcount.le)
  have hresults : results s.params new = vs := hinterprets.samples.results_new
  refine ⟨t, [.outCount (some (pseudoShiftR ds).length), .outTake (pseudoShiftR ds)] ++ new,
    (exec_ingest_pseudoShiftR hr hmode hp hq).trans ht, BitVec.eq_of_toNat_eq hused, hshift.writeOnly, ?_, ?_, ?_, ?_⟩
  · rw [hinterprets.frame.1, ← hlen]
    rfl
  · rw [hshift.trace]
    exact List.append_assoc _ _ _
  · rw [lineCalls_append, hshift.calls]
    exact zero_add _
  · rw [results_of_silent s.params (by simp [isSilent]), hresults, hlen]

end Sys2Proof
end

section
/-! Operations that are blind to a change made to the state: they do the same to the changed state, and leave the change as
it was. -/
namespace Sys2Proof.Machine

variable {f : State → State} {g h : State → Out}

/-- The outcome from a changed state is the outcome from the state itself, with the change made to it. -/
def BlindTo (f : State → State) (g : State → Out) : Prop := ∀ s, g (f s) = mapNext f (g s)

theorem BlindTo.next {g : State → State} (hg : ∀ s, g (f s) = f (g s)) : BlindTo f (fun s => .next (g s)) :=
  fun s => congrArg Host.Outcome.next (hg s)

theorem BlindTo.refused (r : Refusal) : BlindTo f (fun _ => .refused r) := fun _ => rfl

theorem andThen_mapNext (hh : BlindTo f h) (o : Out) : andThen (mapNext f o) h = mapNext f (andThen o h) := by
  cases o with
  | next s => exact hh s
  | fault r => rfl
  | refused r => rfl

theorem BlindTo.andThen (hg : BlindTo f g) (hh : BlindTo f h) : BlindTo f (fun s => andThen (g s) h) := by
  intro s
  simp only [hg s, andThen_mapNext hh]

/-- A choice by a condition that the change leaves alone. -/
theorem BlindTo.ite {c : State → Prop} [∀ s, Decidable (c s)] (hc : ∀ s, c (f s) ↔ c s) (hg : BlindTo f g)
    (hh : BlindTo f h) : BlindTo f (fun s => if c s then g s else h s) := by
  intro s
  by_cases hs : c s
  · simpa only [if_pos hs, if_pos ((hc s).mpr hs)] using hg s
  · simpa only [if_neg hs, if_neg (hs ∘ (hc s).mp)] using hh s

theorem BlindTo.inBitBang (hcount : ∀ s, (f s).pendingShiftCount = s.pendingShiftCount) (hg : BlindTo f g) :
    BlindTo f (fun s => inBitBang s (g s)) :=
  .ite (fun s => by simp [bitBangMode, hcount]) hg (.refused _)

theorem BlindTo.inShift {w : Bool} (hcount : ∀ s, (f s).pendingShiftCount = s.pendingShiftCount)
    (hw : ∀ s, (f s).writeOnly = s.writeOnly) (hg : BlindTo f g) : BlindTo f (fun s => inShift w s (g s)) :=
  .ite (fun s => by simp [bitBangMode, hcount, hw]) hg (.refused _)

end Sys2Proof.Machine
end

section
/-! The interpreter is blind to every register that it does not work on (43_dataplane_interpreter.md R212). -/
namespace Sys2Proof.Machine

variable (other : State) {i : Instr}

theorem lineAnswer_withOtherRegisters (s : State) :
    lineAnswer (withOtherRegisters other s) = ((lineAnswer s).1, withOtherRegisters other (lineAnswer s).2) := by
  have hscript : (withOtherRegisters other s).lineIn = s.lineIn := rfl
  cases hs : s.lineIn with
  | nil => rw [lineAnswer_free hs, lineAnswer_free (hscript.trans hs)]; rfl
  | cons a rest => rw [lineAnswer_scripted hs, lineAnswer_scripted (hscript.trans hs)]; rfl

theorem lineGetState_withOtherRegisters (s : State) :
    lineGetState (withOtherRegisters other s) = ((lineGetState s).1, withOtherRegisters other (lineGetState s).2) := by
  simp only [lineGetState, lineAnswer_withOtherRegisters]
  rfl

theorem lineShiftInOut_withOtherRegisters (b : Bool) (s : State) : lineShiftInOut b (withOtherRegisters other s)
    = ((lineShiftInOut b s).1, withOtherRegisters other (lineShiftInOut b s).2) := by
  simp only [lineShiftInOut, lineAnswer_withOtherRegisters]
  rfl

theorem shiftInOutBits_withOtherRegisters (d : Byte) (ks : List Nat) (r : Byte) (s : State) :
    shiftInOutBits d ks r (withOtherRegisters other s)
      = ((shiftInOutBits d ks r s).1, withOtherRegisters other (shiftInOutBits d ks r s).2) := by
  induction ks generalizing r s with
  | nil => rfl
  | cons k ks ih => simp only [shiftInOutBits, lineShiftInOut_withOtherRegisters, ih]

theorem blindTo_ringAppend (v : Byte) : BlindTo (withOtherRegisters other) (ringAppend v) :=
  .ite (fun _ => .rfl) (.next fun _ => rfl) fun _ => rfl

theorem blindTo_bbr (l : Six) : BlindTo (withOtherRegisters other) (exec (.bbr l)) := by
  refine .inBitBang (fun _ => rfl) fun s => ?_
  have hset : lineSetLines l (recordReadBit true (withOtherRegisters other s))
      = withOtherRegisters other (lineSetLines l (recordReadBit true s)) := rfl
  simp only [hset, lineGetState_withOtherRegisters]
  exact blindTo_ringAppend other _ _

theorem blindTo_datw (d : Byte) : BlindTo (withOtherRegisters other) (exec (.datw d)) := by
  refine .inShift (fun _ => rfl) (fun _ => rfl) (.next fun s => ?_)
  simp only [shiftOutBits_eq]
  rfl

theorem blindTo_datr (d : Byte) : BlindTo (withOtherRegisters other) (exec (.datr d)) := by
  refine .inShift (fun _ => rfl) (fun _ => rfl) fun s => ?_
  have horder : shiftOrder (withOtherRegisters other s).params = shiftOrder s.params := rfl
  simp only [horder, shiftInOutBits_withOtherRegisters]
  have hcount : BlindTo (withOtherRegisters other) (fun t => .next (countDown t)) := fun _ => rfl
  exact (blindTo_ringAppend other _).andThen hcount _

/-- No command of the stream reads a register that the interpreter does not work on. -/
theorem blindTo_dataCommand (hi : isDataCommand i = true) : BlindTo (withOtherRegisters other) (exec i) := by
  cases i with
  | bbw l => exact .inBitBang (fun _ => rfl) (.next fun _ => rfl)
  | bbr l => exact blindTo_bbr other l
  | shw n => exact .inBitBang (fun _ => rfl) (.next fun _ => rfl)
  | shr n => exact .inBitBang (fun _ => rfl) (.next fun _ => rfl)
  | datw d => exact blindTo_datw other d
  | datr d => exact blindTo_datr other d
  | _ => cases hi

theorem blindTo_interpretByte (b : Byte) : BlindTo (withOtherRegisters other) (interpretByte b) := by
  intro s
  rw [interpretByte_eq, interpretByte_eq]
  have hadvance : BlindTo (withOtherRegisters other) (fun t => .next { t with pc := t.pc + 1 }) := fun _ => rfl
  exact (blindTo_dataCommand other (isDataCommand_decodeByte _ _ b)).andThen hadvance s

theorem blindTo_interpretBytes (k : Nat) : BlindTo (withOtherRegisters other) (interpretBytes k) := by
  induction k with
  | zero => exact fun _ => rfl
  | succ k ih =>
    intro s
    have hfetch : fetchByte (withOtherRegisters other s) = fetchByte s := rfl
    rw [interpretBytes, interpretBytes, hfetch]
    cases fetchByte s with
    | none => rfl
    | some b => exact (blindTo_interpretByte other b).andThen ih s

theorem exists_chunk_of_ingestEnabled {s : State} (h : ingestEnabled s = true) :
    s.running = true ∧ s.pending < Config.gate ∧ ∃ chunk queue, s.outQueue = chunk :: queue := by
  simp only [ingestEnabled, Bool.and_eq_true, Bool.not_eq_true', List.isEmpty_eq_false_iff, decide_eq_true_eq] at h
  obtain ⟨⟨hr, hq⟩, hp⟩ := h
  exact ⟨hr, hp, List.exists_cons_of_ne_nil hq⟩

/-- Ingestion is blind to the registers that the requests toggle or store: they are among those that the interpreter does
not work on, and it leaves them as they are. -/
theorem blindTo_ingest (jtagMaster syncMode speedMode : Bool) (curConfig curAlt : Byte) :
    BlindTo (withModeFlags jtagMaster syncMode speedMode curConfig curAlt) (exec .ingest) := by
  intro s
  cases he : ingestEnabled s with
  | false =>
    rw [exec_ingest_idle he, exec_ingest_idle (by exact he)]
    cases hr : s.running <;> simp [withModeFlags, mapNext, hr, call, countQuery]
  | true =>
    obtain ⟨hr, hp, chunk, queue, hq⟩ := exists_chunk_of_ingestEnabled he
    have hblind := blindTo_interpretBytes
      (withModeFlags jtagMaster syncMode speedMode curConfig curAlt (chunkTaken chunk queue s)) chunk.length
      (chunkTaken chunk queue s)
    rw [exec_ingest_taken hr hq hp, exec_ingest_taken (by exact hr) (by exact hq) (by exact hp)]
    refine hblind.trans ?_
    rcases interpretBytes_spec chunk.length (chunkTaken chunk queue s) with
      ⟨t, new, vs, hexec, -, -, hinterprets⟩ | ⟨-, hexec⟩
    · rw [hexec, mapNext, mapNext, andThen_next, andThen_next, hinterprets.frame.1]
      rfl
    · rw [hexec]
      rfl

end Sys2Proof.Machine

namespace Sys2Proof

open Machine

/-- Settles O17: every command is blind to the other registers, hence every run of bytes, and so is ingestion. -/
theorem interpreterIgnoresModeFlags : Obligations.InterpreterIgnoresModeFlags := by
  unfold Obligations.InterpreterIgnoresModeFlags
  exact ⟨fun k s other => blindTo_interpretBytes other k s, fun s jtagMaster syncMode speedMode curConfig curAlt =>
    blindTo_ingest jtagMaster syncMode speedMode curConfig curAlt s⟩

end Sys2Proof
end

section
/-! In bit-bang mode `WriteOnly` cannot be observed (30_encoding.md section 6): nothing but the interpreter reads it, and in
bit-bang mode the interpreter writes it before it can be read. -/
namespace Sys2Proof.Machine

variable {s t : State} {w : Bool} {i : Instr}

/-- The state with `WriteOnly` at another value. -/
def withWriteOnly (w : Bool) (s : State) : State := { s with writeOnly := w }

theorem atBoundary_withWriteOnly {α : Type} (r : Except OutOfRange α) {handle : α → State → State}
    (h : ∀ v s, handle v (withWriteOnly w s) = withWriteOnly w (handle v s)) (s : State) :
    atBoundary r handle (withWriteOnly w s) = withWriteOnly w (atBoundary r handle s) := by
  cases r with
  | ok v => exact h v s
  | error e => rfl

theorem replyDescriptor_withWriteOnly (kind : DescKind) (index : Nat) (s : State) :
    replyDescriptor kind index (withWriteOnly w s) = withWriteOnly w (replyDescriptor kind index s) :=
  atBoundary_withWriteOnly _ (by exact fun _ _ => rfl) s

theorem cfgPair_withWriteOnly (o : Nat) (s : State) :
    cfgPair o (withWriteOnly w s) = ((cfgPair o s).1, withWriteOnly w (cfgPair o s).2) := by
  have hfirst : cfgReadByte o (withWriteOnly w s) = ((cfgReadByte o s).1, withWriteOnly w (cfgReadByte o s).2) := rfl
  simp only [cfgPair, hfirst]
  cases (cfgReadByte o s).1 <;> rfl

/-- No request reads `WriteOnly`. -/
theorem blindTo_request (hi : isRequest i = true) : BlindTo (withWriteOnly w) (exec i) := by
  cases i with
  | classAny => exact fun _ => rfl
  | reservedTypeAny => exact fun _ => rfl
  | start => exact fun _ => rfl
  | vendorOutOther code => exact fun _ => rfl
  | readConfig indexL length =>
    refine .next fun s => ?_
    simp only [cfgPair_withWriteOnly]
    exact atBoundary_withWriteOnly _ (by exact fun _ _ => rfl) _
  | changeSpeed => exact fun _ => rfl
  | changeMaster => exact fun _ => rfl
  | changeMode => exact fun _ => rfl
  | getVersion => exact fun _ => rfl
  | vendorInOther code length => exact fun _ => rfl
  | getConfiguration => exact fun _ => rfl
  | getInterface => exact fun _ => rfl
  | getDescriptorDevice => exact .next (replyDescriptor_withWriteOnly _ _)
  | getDescriptorConfiguration => exact .next (replyDescriptor_withWriteOnly _ _)
  | getDescriptorString index => exact .next (replyDescriptor_withWriteOnly _ _)
  | getDescriptorDeviceQualifier => exact .next (replyDescriptor_withWriteOnly _ _)
  | getDescriptorOtherSpeed => exact .next (replyDescriptor_withWriteOnly _ _)
  | getDescriptorOther type => exact fun _ => rfl
  | getStatusDevice => exact fun _ => rfl
  | getStatusInterface => exact fun _ => rfl
  | getStatusEndpoint a => exact .next (atBoundary_withWriteOnly _ fun _ _ => rfl)
  | getStatusOther recipient => exact fun _ => rfl
  | synchFrame => exact fun _ => rfl
  | standardInOther code => exact fun _ => rfl
  | setConfiguration value => exact fun _ => rfl
  | setInterface value => exact fun _ => rfl
  | clearFeatureEndpoint selector a =>
    exact .ite (fun _ => .rfl) (.next (atBoundary_withWriteOnly _ fun _ _ => rfl)) fun _ => rfl
  | setFeatureEndpoint selector a =>
    exact .ite (fun _ => .rfl) (.next (atBoundary_withWriteOnly _ fun _ _ => rfl)) fun _ => rfl
  | clearFeatureDevice selector => exact .ite (fun _ => .rfl) (fun _ => rfl) fun _ => rfl
  | setFeatureDevice selector => exact .ite (fun _ => .rfl) (fun _ => rfl) fun _ => rfl
  | clearFeatureOther recipient => exact fun _ => rfl
  | setFeatureOther recipient => exact fun _ => rfl
  | setAddress => exact fun _ => rfl
  | setDescriptor => exact fun _ => rfl
  | standardOutOther code => exact fun _ => rfl
  | _ => cases hi

theorem exec_setupStep_eq (h : s.setupPending = true) :
    exec .setupStep s = andThen (exec (decodeSetup s.params s.setupDesc) { s with setupPending := false, ep0 := .empty })
      (fun t => .next (ackHandshake s.setupDesc.wLength t)) := by
  obtain ⟨t, new, hstep, hexec, -⟩ := exec_setupStep h
  rw [hstep, hexec, andThen_next]

theorem blindTo_setupStep : BlindTo (withWriteOnly w) (exec .setupStep) := by
  intro s
  cases hp : s.setupPending with
  | false => rw [exec_setupStep_idle hp, exec_setupStep_idle (by exact hp)]; rfl
  | true =>
    rw [exec_setupStep_eq hp, exec_setupStep_eq (by exact hp)]
    have hack : BlindTo (withWriteOnly w) (fun t => .next (ackHandshake s.setupDesc.wLength t)) := fun _ => rfl
    exact (blindTo_request (isRequest_decodeSetup s.params s.setupDesc)).andThen hack
      { s with setupPending := false, ep0 := .empty }

/-- The emission step's frame reads `WriteOnly` only where what it emits does. -/
theorem whenEndpointFree_withWriteOnly {emit : State → State}
    (h : ∀ s, emit (withWriteOnly w s) = withWriteOnly w (emit s)) (s : State) :
    whenEndpointFree emit (withWriteOnly w s) = mapNext (withWriteOnly w) (whenEndpointFree emit s) := by
  have hquery : ∀ s, inBusyGet (withWriteOnly w s) = ((inBusyGet s).1, withWriteOnly w (inBusyGet s).2) := fun _ => rfl
  have hemits : BlindTo (withWriteOnly w)
      (fun s => .next (if (inBusyGet s).1 then (inBusyGet s).2 else emit (inBusyGet s).2)) := by
    refine .next fun s => ?_
    simp only [hquery]
    split
    · rfl
    · exact h _
  have hframe : BlindTo (withWriteOnly w) (whenEndpointFree emit) := .ite (fun _ => .rfl) hemits fun _ => rfl
  exact hframe s

theorem blindTo_dataPacket : BlindTo (withWriteOnly w) (exec .dataPacket) := by
  intro s
  simp only [exec, execDataPacket]
  refine whenEndpointFree_withWriteOnly (fun s => ?_) s
  by_cases hp : 0 < s.pending
  · rw [if_pos hp, if_pos (by exact hp)]
    rfl
  · rw [if_neg hp, if_neg (by exact hp)]

theorem blindTo_keepalivePacket : BlindTo (withWriteOnly w) (exec .keepalivePacket) := by
  intro s
  simp only [exec, execKeepalivePacket]
  refine whenEndpointFree_withWriteOnly (fun s => ?_) s
  by_cases hdue : s.pending = 0 ∧ s.tickFlag = true
  · rw [if_pos hdue, if_pos (by exact hdue)]
    rfl
  · rw [if_neg hdue, if_neg (by exact hdue)]

theorem blindTo_event {turn : Turn} (hi : turnEvent turn = some i) : BlindTo (withWriteOnly w) (exec i) := by
  cases turn with
  | core => cases hi
  | tick => cases hi; exact fun _ => rfl
  | setupArrives d => cases hi; exact .ite (fun _ => .rfl) (fun _ => rfl) fun _ => rfl
  | chunkArrives chunk => cases hi; exact fun _ => rfl
  | hostTakesIn => cases hi; exact .ite (fun _ => .rfl) (fun _ => rfl) fun _ => rfl

/-- From a state in bit-bang mode an operation does the same whatever `WriteOnly` holds, or it carries the value on in
bit-bang mode. -/
def HidesWriteOnly (w : Bool) (s : State) (g : State → Out) : Prop :=
  g (withWriteOnly w s) = g s
    ∨ g (withWriteOnly w s) = mapNext (withWriteOnly w) (g s) ∧ ∀ t, g s = .next t → t.pendingShiftCount = 0

/-- A bit-bang byte writes `WriteOnly` without reading it (R201). -/
theorem exec_decodeBitBang_withWriteOnly (b : Byte) (s : State) :
    exec (decodeBitBang b) (withWriteOnly w s) = exec (decodeBitBang b) s := by
  unfold decodeBitBang
  split_ifs <;> rfl

/-- A chunk that is not empty is ingested the same, since its first byte is a bit-bang command. -/
theorem exec_ingest_withWriteOnly {b : Byte} {bs : List Byte} {queue : List (List Byte)} (hr : s.running = true)
    (hmode : s.pendingShiftCount = 0) (hp : s.pending < Config.gate) (hq : s.outQueue = (b :: bs) :: queue) :
    exec .ingest (withWriteOnly w s) = exec .ingest s := by
  have hbyte : ∀ v, decodeByte s.pendingShiftCount v b = decodeBitBang b := fun v => if_pos hmode
  rw [exec_ingest_cons hr hp hq (hbyte _), exec_ingest_cons (by exact hr) (by exact hp) (by exact hq) (hbyte w)]
  exact congrArg (andThen · _) (exec_decodeBitBang_withWriteOnly b (chunkTaken (b :: bs) queue s))

theorem hidesWriteOnly_ingest (hmode : s.pendingShiftCount = 0) : HidesWriteOnly w s (exec .ingest) := by
  cases he : ingestEnabled s with
  | false =>
    refine .inr ⟨?_, fun t ht => (sameMode_ingest_idle he ht).2.trans hmode⟩
    rw [exec_ingest_idle he, exec_ingest_idle (by exact he)]
    cases hr : s.running <;> simp [withWriteOnly, mapNext, hr, call, countQuery]
  | true =>
    obtain ⟨hr, hp, chunk, queue, hq⟩ := exists_chunk_of_ingestEnabled he
    cases chunk with
    | nil =>
      have hempty : exec .ingest s = .next (chunkTaken [] queue s) := exec_ingest_taken hr hq hp
      refine .inr ⟨?_, fun t ht => ?_⟩
      · rw [hempty]
        exact exec_ingest_taken (s := withWriteOnly w s) hr hq hp
      · cases hempty.symm.trans ht
        exact hmode
    | cons b bs => exact .inl (exec_ingest_withWriteOnly hr hmode hp hq)

theorem hidesWriteOnly_coreInstr (hmode : s.pendingShiftCount = 0) : HidesWriteOnly w s (exec (coreInstr s)) := by
  rcases coreInstr_cases s with ⟨-, hi⟩ | ⟨-, hi⟩ | ⟨-, -, hi⟩ | ⟨-, -, hi⟩ <;> rw [hi]
  · exact .inr ⟨blindTo_setupStep s, fun t ht => (sameMode_setupStep ht).2.trans hmode⟩
  · exact hidesWriteOnly_ingest hmode
  · exact .inr ⟨blindTo_dataPacket s, fun t ht => (sameMode_dataPacket ht).2.trans hmode⟩
  · exact .inr ⟨blindTo_keepalivePacket s, fun t ht => (sameMode_keepalivePacket ht).2.trans hmode⟩

theorem nextTurn_withWriteOnly (s : State) :
    nextTurn (withWriteOnly w s) = ((nextTurn s).1, (nextTurn s).2.1, withWriteOnly w (nextTurn s).2.2) := by
  have hturns : (withWriteOnly w s).turns = s.turns := rfl
  have henabled : ∀ turn, turnEnabled (withWriteOnly w s) turn = turnEnabled s turn := fun turn => by cases turn <;> rfl
  unfold nextTurn
  rw [hturns]
  cases s.turns with
  | nil => rfl
  | cons turn rest =>
    simp only [henabled]
    split
    · cases turn <;> rfl
    · rfl

theorem hidesWriteOnly_step (hmode : s.pendingShiftCount = 0) : HidesWriteOnly w s step := by
  obtain ⟨rest, hstate, -, hturn⟩ := nextTurn_spec s
  have hexec : HidesWriteOnly w (nextTurn s).2.2 (exec (nextTurn s).1) := by
    rw [hstate]
    rcases hturn with ⟨hi, -⟩ | ⟨turn, -, henabled, hi, -⟩
    · rw [hi]
      exact hidesWriteOnly_coreInstr (s := { s with turns := rest }) hmode
    · have henabled' := (turnEnabled_with_turns rest turn).trans henabled
      exact .inr ⟨blindTo_event hi _, fun t ht => (sameMode_event henabled' hi ht).2.trans hmode⟩
  have hafter : BlindTo (withWriteOnly w) (afterTurn (nextTurn s).2.1) := .ite (fun _ => .rfl) (fun _ => rfl) fun _ => rfl
  simp only [HidesWriteOnly, step, nextTurn_withWriteOnly]
  rcases hexec with hsame | ⟨hcarried, hmode'⟩
  · exact .inl (by rw [hsame])
  · refine .inr ⟨?_, fun t ht => ?_⟩
    · rw [hcarried]
      exact andThen_mapNext hafter _
    · obtain ⟨u, hu, ht⟩ := andThen_eq_next.mp ht
      have hcount : t.pendingShiftCount = u.pendingShiftCount := by
        unfold afterTurn at ht
        split at ht <;> cases ht <;> rfl
      exact hcount.trans (hmode' u hu)

theorem hidesWriteOnly_runSteps (k : Nat) (hmode : s.pendingShiftCount = 0) :
    runSteps k (withWriteOnly w s) = runSteps k s
      ∨ ∃ t, runSteps k s = .next t ∧ t.pendingShiftCount = 0
          ∧ runSteps k (withWriteOnly w s) = .next (withWriteOnly w t) := by
  induction k generalizing s with
  | zero => exact .inr ⟨s, rfl, hmode, rfl⟩
  | succ k ih =>
    simp only [runSteps]
    rcases hidesWriteOnly_step (w := w) hmode with hsame | ⟨hcarried, hmode'⟩
    · exact .inl (by rw [hsame])
    · rw [hcarried]
      cases hstep : step s with
      | next t => exact ih (hmode' t hstep)
      | fault r => exact .inl rfl
      | refused r => exact .inl rfl

end Sys2Proof.Machine

namespace Sys2Proof

open Machine

/-- Settles O20, by induction on the number of steps: a step from bit-bang mode hides `WriteOnly` or carries it on. -/
theorem writeOnlyUnobservableInBitBang : Obligations.WriteOnlyUnobservableInBitBang := by
  unfold Obligations.WriteOnlyUnobservableInBitBang
  refine ⟨fun k s w hmode => ?_, fun s w b bs queue hr hmode hp hq => exec_ingest_withWriteOnly hr hmode hp hq⟩
  simp only [core_run_eq_runSteps]
  exact hidesWriteOnly_runSteps k hmode

end Sys2Proof
end

section
/-! The engine at rest and behind a burst (45_event_loop.md R242, R246, 44_packet_framer.md R232). -/
namespace Sys2Proof.Machine

variable {s : State}

/-- Behind the global gate the engine does nothing (R242). -/
theorem exec_engine_stopped (hr : s.running = false) {i : Instr}
    (hi : i ∈ [Instr.ingest, .dataPacket, .keepalivePacket]) : exec i s = .next s := by
  have hstopped : ¬ s.running = true := by simp [hr]
  revert i
  simp only [List.forall_mem_cons, List.not_mem_nil]
  exact ⟨if_neg hstopped, if_neg hstopped, if_neg hstopped, nofun⟩

/-- An emission into a busy endpoint, or with nothing due, is at most its query (R228, R242). -/
theorem exec_emit_idle (hphase : s.phase = .emit)
    (hidle : s.running = true → s.inBusy = true ∨ (s.pending = 0 ∧ s.tickFlag = false)) :
    exec (coreInstr s) s = .next (if s.running then call (.inBusy s.inBusy) s else s) := by
  rcases coreInstr_cases s with ⟨hother, -⟩ | ⟨hother, -⟩ | ⟨-, hp, hi⟩ | ⟨-, -, hi⟩
  · cases hphase.symm.trans hother
  · cases hphase.symm.trans hother
  · rw [hi]
    rcases exec_dataPacket s with ⟨hr, hexec⟩ | ⟨hr, -, hexec⟩ | ⟨hr, hb, -, -⟩
    · rw [hexec, hr, if_neg Bool.false_ne_true]
    · rw [hexec, if_pos hr]
    · rcases hidle hr with hbusy | ⟨hempty, -⟩
      · cases hb.symm.trans hbusy
      · exact absurd hempty hp.ne'
  · rw [hi]
    rcases exec_keepalivePacket s with ⟨hr, hexec⟩ | ⟨hr, -, hexec⟩ | ⟨hr, hb, -, hdue, -⟩
    · rw [hexec, hr, if_neg Bool.false_ne_true]
    · rw [hexec, if_pos hr]
    · rcases hidle hr with hbusy | ⟨-, hclear⟩
      · cases hb.symm.trans hbusy
      · cases hdue.symm.trans hclear

/-- A call made only by a running engine. -/
theorem ite_call_eq (c : Call) (s : State) :
    (if s.running then call c s else s) = { s with trace := s.trace ++ (if s.running then [c] else []) } := by
  by_cases hr : s.running = true
  · rw [if_pos hr, if_pos hr]
    rfl
  · rw [if_neg hr, if_neg hr, List.append_nil]

section
variable (hturns : s.turns = [])
include hturns

theorem step_of_coreInstr {u : State} (h : exec (coreInstr s) s = .next u) :
    step s = .next { u with phase := nextPhase u.phase } := by
  rw [step_core_of_no_turns hturns, h, andThen_next]

theorem step_setup_idle (hphase : s.phase = .setup) (hp : s.setupPending = false) :
    step s = .next { s with phase := .ingest } := by
  have hi : coreInstr s = .setupStep := by rw [coreInstr, hphase]
  rw [step_of_coreInstr hturns (hi ▸ exec_setupStep_idle hp), hphase, nextPhase]

theorem step_ingest_idle (hphase : s.phase = .ingest) (hidle : ingestEnabled s = false) :
    step s = .next { s with phase := .emit, trace := s.trace ++ (if s.running then [countQuery s] else []) } := by
  have hi : coreInstr s = .ingest := by rw [coreInstr, hphase]
  rw [step_of_coreInstr hturns (hi ▸ exec_ingest_idle hidle), ite_call_eq, hphase, nextPhase]

theorem step_emit_idle (hphase : s.phase = .emit)
    (hidle : s.running = true → s.inBusy = true ∨ (s.pending = 0 ∧ s.tickFlag = false)) :
    step s = .next { s with phase := .setup, trace := s.trace ++ (if s.running then [.inBusy s.inBusy] else []) } := by
  rw [step_of_coreInstr hturns (exec_emit_idle hphase hidle), ite_call_eq, hphase, nextPhase]

/-- A whole iteration with nothing to do makes the queries of a running engine and ends where it began (R246). -/
theorem runSteps_quiescent (hphase : s.phase = .setup) (hp : s.setupPending = false) (hcount : ingestEnabled s = false)
    (hidle : s.running = true → s.inBusy = true ∨ (s.pending = 0 ∧ s.tickFlag = false)) :
    runSteps 3 s = .next { s with
      trace := s.trace ++ (if s.running then [countQuery s, .inBusy s.inBusy] else []) } := by
  simp only [runSteps]
  rw [step_setup_idle hturns hphase hp, andThen_next, step_ingest_idle (by exact hturns) rfl (by exact hcount),
    andThen_next, step_emit_idle (by exact hturns) rfl (by exact hidle), andThen_next, ← hphase]
  by_cases hr : s.running = true
  · simp only [if_pos hr, List.append_assoc]
    rfl
  · simp only [if_neg hr, List.append_nil]

end

end Sys2Proof.Machine

namespace Sys2Proof

open Machine

/-- Settles O32: each of the three tests `Running` first. -/
theorem stoppedEngineDoesNothing : Obligations.StoppedEngineDoesNothing := by
  unfold Obligations.StoppedEngineDoesNothing
  exact fun s hr i hi => exec_engine_stopped hr hi

/-- Settles O27: the packet that the host took freed the endpoint, the ring is empty, and the flag is what the data packet
armed. -/
theorem shortTransferFollowsBurst : Obligations.ShortTransferFollowsBurst := by
  unfold Obligations.ShortTransferFollowsBurst
  intro s hr hb hp hmost ht
  have hempty : s.pending - payloadLength s = 0 := by simp only [payloadLength, Config.maxPayload]; omega
  refine ⟨_, _, exec_dataPacket_enabled hr hb hp, exec_hostTakesIn rfl rfl, hempty, rfl, fun harm => ?_, fun harm => ?_⟩
  · refine ⟨_, exec_keepalivePacket_enabled hr rfl hempty (by simp [harm]), ?_, rfl⟩
    simp [Config.hdr]
  · exact (exec_keepalivePacket_noTick (by simp [ht, harm])).trans (congrArg _ (if_pos hr))

/-- Settles O29, part by part of the iteration: the setup step is idle, and the ingestion and the emission are at most
their queries. -/
theorem quiescentIterationChangesNothing : Obligations.QuiescentIterationChangesNothing := by
  unfold Obligations.QuiescentIterationChangesNothing
  intro s hturns hphase hsetup hquiet
  have hcount : ingestEnabled s = false := by
    rcases hquiet with hr | ⟨hq | hp, -⟩
    · simp [ingestEnabled, hr]
    · simp [ingestEnabled, hq]
    · simp [ingestEnabled, Nat.not_lt.mpr (show Config.gate ≤ s.pending from hp)]
  have hidle : s.running = true → s.inBusy = true ∨ (s.pending = 0 ∧ s.tickFlag = false) := fun hr =>
    (hquiet.resolve_left (by simp [hr])).2
  refine ⟨_, (core_run_eq_runSteps 3 s).trans (runSteps_quiescent hturns hphase hsetup hcount hidle), rfl, ?_⟩
  cases s.running <;> simp [observable, isObservable, countQuery]

end Sys2Proof
end

section
/-! The halt feature of an endpoint and its status (41_control_dispatch.md R154, R158, R159). -/
namespace Sys2Proof.Machine

variable {s : State} {a : Byte}

theorem exec_clearHalt (ha : plausible a = true) :
    exec (.clearFeatureEndpoint 0 a) s = .next (epToggleReset a (epStallSet a false s)) := by
  have hsel : (0 : Byte) = selectorHalt := rfl
  rw [exec, execClearFeatureEndpoint, if_pos hsel, endpointOperand_of_plausible ha, atBoundary]

theorem exec_setHalt (ha : plausible a = true) :
    exec (.setFeatureEndpoint 0 a) s = .next (epStallSet a true s) := by
  have hsel : (0 : Byte) = selectorHalt := rfl
  rw [exec, execSetFeatureEndpoint, if_pos hsel, endpointOperand_of_plausible ha, atBoundary]

/-- Another selector or an implausible endpoint takes the exception (R158, R159). -/
theorem stalls_haltFeature {sel : Byte} (h : ¬ (sel = 0 ∧ plausible a = true)) :
    Stalls (.clearFeatureEndpoint sel a) s ∧ Stalls (.setFeatureEndpoint sel a) s := by
  by_cases hsel : sel = selectorHalt
  · have ha : plausible a = false := Bool.eq_false_iff.mpr fun ha => h ⟨hsel, ha⟩
    refine ⟨stalls_of_protocolStall ?_, stalls_of_protocolStall ?_⟩
    · rw [exec, execClearFeatureEndpoint, if_pos hsel, endpointOperand_of_implausible ha, atBoundary]
    · rw [exec, execSetFeatureEndpoint, if_pos hsel, endpointOperand_of_implausible ha, atBoundary]
  · exact ⟨stalls_of_protocolStall (if_neg hsel), stalls_of_protocolStall (if_neg hsel)⟩

@[simp] theorem epStalled_epStallSet_same (a : Byte) (b : Bool) (s : State) : epStalled a (epStallSet a b s) = b := by
  simp [epStalled, sparseGet_sparseSet_same]

theorem epStalled_epStallSet_other {e : Byte} (h : e ≠ a) (b : Bool) (s : State) :
    epStalled e (epStallSet a b s) = epStalled e s := by
  have hne : e.toNat ≠ a.toNat := fun heq => h (BitVec.eq_of_toNat_eq heq)
  simp [epStalled, sparseGet_sparseSet_other _ _ hne]

@[simp] theorem epStalled_epToggleReset (e a : Byte) (s : State) : epStalled e (epToggleReset a s) = epStalled e s := rfl

@[simp] theorem epToggleOf_epToggleReset_same (a : Byte) (s : State) : epToggleOf a (epToggleReset a s) = .data0 := by
  simp [epToggleOf, sparseGet_sparseSet_same]

theorem epToggleOf_epToggleReset_other {e : Byte} (h : e ≠ a) (s : State) :
    epToggleOf e (epToggleReset a s) = epToggleOf e s := by
  have hne : e.toNat ≠ a.toNat := fun heq => h (BitVec.eq_of_toNat_eq heq)
  simp [epToggleOf, sparseGet_sparseSet_other _ _ hne]

@[simp] theorem epToggleOf_epStallSet (e a : Byte) (b : Bool) (s : State) :
    epToggleOf e (epStallSet a b s) = epToggleOf e s := rfl

/-- GET_STATUS of a plausible endpoint asks for its stall bit and replies with it (R154). -/
theorem replies_getStatusEndpoint (ha : plausible a = true) {stalled : Bool} (h : epStalled a s = stalled) :
    Replies (.getStatusEndpoint a) s [.epStallGet a stalled] (endpointStatus s.params.epStatusLen stalled) := by
  refine replies_of_stageReply ?_
  subst h
  rw [exec, execGetStatusEndpoint, endpointOperand_of_plausible ha]
  rfl

end Sys2Proof.Machine

namespace Sys2Proof

open Machine

/-- Settles O44, by the selector and the plausibility of the endpoint; the sparse tables keep every other address. -/
theorem endpointHaltFeature : Obligations.EndpointHaltFeature := by
  unfold Obligations.EndpointHaltFeature
  refine ⟨fun p d htype hdir hrecipient => ⟨fun hcode => ?_, fun hcode => ?_⟩, fun s sel a => ?_⟩
  · simp [decodeSetup_clearFeature htype hdir hcode, decodeClearFeature, hrecipient]
  · simp [decodeSetup_setFeature htype hdir hcode, decodeSetFeature, hrecipient]
  simp only [← plausible_iff]
  refine ⟨fun ⟨hsel, ha⟩ => ?_, stalls_haltFeature⟩
  subst hsel
  refine ⟨⟨_, exec_clearHalt ha, by simp, by simp, fun e he => ⟨?_, ?_⟩, ?_⟩,
    _, exec_setHalt ha, by simp, fun e he => ?_, rfl⟩
  · rw [epStalled_epToggleReset, epStalled_epStallSet_other he]
  · rw [epToggleOf_epToggleReset_other he, epToggleOf_epStallSet]
  · simp [epToggleReset, epStallSet, call]
  · exact epStalled_epStallSet_other he true s

/-- Settles O46: the status reads the stall bit that was written. -/
theorem haltFeatureShowsInStatus : Obligations.HaltFeatureShowsInStatus := by
  unfold Obligations.HaltFeatureShowsInStatus
  intro s a ha
  exact ⟨⟨_, exec_setHalt ha, replies_getStatusEndpoint ha (by simp)⟩,
    _, exec_clearHalt ha, by simp, replies_getStatusEndpoint ha (by simp)⟩

end Sys2Proof
end

section
/-! No vendor request stalls (42_vendor_commands.md R189): each leaves the data phase alone or stages a reply. -/
namespace Sys2Proof.Machine

variable {s t : State} {i : Instr} {new : List Call}

/-- The requests of the vendor type (R180). -/
def isVendorRequest : Instr → Bool
  | .start => true
  | .vendorOutOther _ => true
  | .readConfig _ _ => true
  | .changeSpeed => true
  | .changeMaster => true
  | .changeMode => true
  | .getVersion => true
  | .vendorInOther _ _ => true
  | _ => false

theorem isVendorRequest_decodeVendor (p : Params) (d : SetupDesc) : isVendorRequest (decodeVendor p d) = true := by
  unfold decodeVendor
  split_ifs <;> rfl

theorem ep0_vendorRequest (hi : isVendorRequest i = true) (h : exec i s = .next t) :
    t.ep0 = s.ep0 ∨ ∃ bytes arrives, t.ep0 = .staged bytes arrives := by
  cases i with
  | start => cases h; exact .inl rfl
  | vendorOutOther code => cases h; exact .inl rfl
  | readConfig indexL length =>
    obtain ⟨b0, b1, -, -, hpair⟩ := cfgPair_ok s indexL
    rw [exec, execReadConfig, hpair] at h
    cases h
    exact .inr ⟨_, _, rfl⟩
  | changeSpeed => cases h; exact .inr ⟨_, _, rfl⟩
  | changeMaster => cases h; exact .inr ⟨_, _, rfl⟩
  | changeMode => cases h; exact .inr ⟨_, _, rfl⟩
  | getVersion => cases h; exact .inr ⟨_, _, rfl⟩
  | vendorInOther code length => cases h; exact .inr ⟨_, _, rfl⟩
  | _ => cases hi

theorem ep0_ne_stalled_of_vendorRequest (hi : isVendorRequest i = true) (h : exec i s = .next t) (hs : s.ep0 = .empty) :
    t.ep0 ≠ .stalled := by
  rcases ep0_vendorRequest hi h with hsame | ⟨bytes, arrives, hstaged⟩
  · rw [hsame, hs]
    exact nofun
  · rw [hstaged]
    exact nofun

/-- What the host sees of a request that did not stall (R51, log 21). -/
theorem HasOutcome.result (h : HasOutcome s t new) (hs : s.ep0 = .empty) (hstall : t.ep0 ≠ .stalled) (wLength : Half) :
    controlResult t.ep0 wLength ≠ .stall ∧ (controlResult t.ep0 wLength = .lost → .renumerate ∈ new)
      ∧ ∀ bytes, .stageReply bytes ∈ new → controlResult t.ep0 wLength = .lost
          ∨ controlResult t.ep0 wLength = .data (hostReceives bytes wLength) := by
  have hmem : ∀ bytes, .stageReply bytes ∈ new → .stageReply bytes ∈ new.filter isOutcome := fun bytes hb =>
    List.mem_filter.mpr ⟨hb, rfl⟩
  cases h with
  | neither calls ep0 =>
    rw [ep0, hs]
    exact ⟨nofun, nofun, fun bytes hb => absurd (hmem bytes hb) (by simp [calls])⟩
  | stall calls ep0 => exact absurd ep0 hstall
  | reply bytes arrives calls ep0 open_only =>
    rw [ep0]
    cases arrives with
    | false => exact ⟨nofun, fun _ => open_only rfl, fun _ _ => .inl rfl⟩
    | true =>
      refine ⟨nofun, nofun, fun b hb => .inr ?_⟩
      obtain rfl : b = bytes := by simpa [calls] using hmem b hb
      rw [hostReceives, Nat.min_comm, ← List.take_eq_take_min]
      rfl

end Sys2Proof.Machine

namespace Sys2Proof

open Machine

/-- Settles O54: the request found nothing staged and did not stall, so the host has what it staged, unless it
renumerated. -/
theorem vendorRequestsNeverStall : Obligations.VendorRequestsNeverStall := by
  unfold Obligations.VendorRequestsNeverStall
  intro s hpending htype
  obtain ⟨t, new, hstep, hexec, hhandles⟩ := exec_setupStep hpending
  have hvendor : isVendorRequest (decodeSetup s.params s.setupDesc) = true := by
    rw [decodeSetup_vendor htype]
    exact isVendorRequest_decodeVendor _ _
  have hstall := ep0_ne_stalled_of_vendorRequest hvendor hexec rfl
  obtain ⟨hresult, hlost, hreply⟩ := hhandles.outcome.result rfl hstall s.setupDesc.wLength
  have htrace : t.trace = s.trace ++ new := by rw [hhandles.state_eq]
  have hctl : t.hostCtl = s.hostCtl := by rw [hhandles.state_eq]
  refine ⟨_, new ++ [.ackHandshake], _, hstep, by simp [htrace], fun hmem => ?_, by simp [hctl], hresult,
    fun h => List.mem_append_left _ (hlost h), fun bytes hmem => hreply bytes (by simpa using hmem)⟩
  have hmem : .stall ∈ new := by simpa using hmem
  exact hstall (by rw [hhandles.no_stall hmem]; rfl)

end Sys2Proof
end

section
/-! The state after reset (10_state.md section 8): the parameters are admitted whatever the opaque constants hold. -/
namespace Sys2Proof

theorem admittedChar_ok (b : Byte) : 0 < (Config.admittedChar b).toNat ∧ (Config.admittedChar b).toNat < 128 := by
  unfold Config.admittedChar
  split
  · assumption
  · decide

theorem params_versionOk : Config.params.versionOk = true := by
  have hchars : ∀ c ∈ Config.params.fwVersion, 0 < c.toNat ∧ c.toNat < 128 := by
    have hmap : Config.params.fwVersion = (Config.fwHead :: Config.fwTail).map Config.admittedChar := rfl
    rw [hmap]
    intro c hc
    obtain ⟨b, -, rfl⟩ := List.mem_map.mp hc
    exact admittedChar_ok b
  have hhead : Config.params.fwVersion.isEmpty = false := rfl
  simpa [Params.versionOk, hhead] using hchars

/-- Each string is cut to what the ones before it left of 102 bytes (R124). -/
theorem params_stringsFit : Config.params.stringsFit = true := by
  have hone : Config.cfgStr1.length ≤ 102 := List.length_take_le _ _
  have htwo : Config.cfgStr2.length ≤ 102 - Config.cfgStr1.length := List.length_take_le _ _
  have hthree : Config.cfgStr3.length ≤ 102 - Config.cfgStr1.length - Config.cfgStr2.length := List.length_take_le _ _
  have hsum : Config.cfgStr1.length + Config.cfgStr2.length + Config.cfgStr3.length ≤ 102 := by omega
  exact decide_eq_true hsum

theorem params_wf : Config.params.wf = true := by
  have hcodes : Config.params.vendorInCodes.Nodup := by decide
  simp only [Params.wf, params_versionOk, params_stringsFit, hcodes]
  rfl

/-- Settles O1: each register as it is written out, and the strings fit, so the block is built. -/
theorem resetLeavesEngineStopped : Obligations.ResetLeavesEngineStopped := by
  unfold Obligations.ResetLeavesEngineStopped
  exact ⟨rfl, rfl, rfl, rfl, rfl, rfl, rfl, rfl, rfl, rfl, if_pos params_stringsFit, rfl⟩

/-- Settles O2: the parameters are admitted, and every list that the invariant speaks of is empty. -/
theorem resetMeetsInvariant : Obligations.ResetMeetsInvariant := by
  unfold Obligations.ResetMeetsInvariant
  exact ⟨params_wf, rfl, Nat.zero_le _, nofun, nofun, le_rfl, nofun, nofun, rfl, rfl⟩

/-- Settles O8: the decoder evaluated on the seven words. -/
theorem knownWordsDecode : Obligations.KnownWordsDecode := by
  unfold Obligations.KnownWordsDecode
  exact ⟨rfl, rfl, rfl, rfl, rfl, rfl, rfl⟩

end Sys2Proof
end

section
/-! Which instruction a step runs (45_event_loop.md R240, R244), and the model's own choices outside the rules. -/
namespace Sys2Proof.Machine

variable {s : State}

theorem step_of_enabled {turn : Turn} {rest : List Turn} {i : Instr} (hturns : s.turns = turn :: rest)
    (henabled : turnEnabled s turn = true) (hi : turnEvent turn = some i) : step s = exec i { s with turns := rest } := by
  have hturn : nextTurn s = (i, false, { s with turns := rest }) := by simp [nextTurn, hturns, henabled, hi]
  rw [step, hturn]
  cases exec i { s with turns := rest } <;> rfl

theorem step_of_core_turn {rest : List Turn} (hturns : s.turns = .core :: rest) :
    step s = andThen (exec (coreInstr s) { s with turns := rest })
      (fun t => .next { t with phase := nextPhase t.phase }) := by
  have hturn : nextTurn s = (coreInstr s, true, { s with turns := rest }) := by
    simp [nextTurn, hturns, turnEnabled, turnEvent]
  rw [step, hturn]
  rfl

theorem interpretBytes_succ {k : Nat} {b : Byte} (hb : s.outChunk[s.pc]? = some b) :
    interpretBytes (k + 1) s = andThen (exec (decodeByte s.pendingShiftCount s.writeOnly b) s)
      (fun t => interpretBytes k { t with pc := t.pc + 1 }) := by
  have hfetch : fetchByte s = some b := hb
  rw [interpretBytes, hfetch]
  simp only [interpretByte_eq, andThen_assoc, andThen_next]

theorem inBitBang_refused (h : s.pendingShiftCount ≠ 0) (o : Out) : inBitBang s o = .refused .notInThisMode := by
  have hmode : bitBangMode s = false := decide_eq_false h
  simp [inBitBang, hmode]

theorem inShift_refused {w : Bool} (h : s.pendingShiftCount = 0 ∨ s.writeOnly = !w) (o : Out) :
    inShift w s o = .refused .notInThisMode := by
  rcases h with h | h
  · simp [inShift, bitBangMode, h]
  · simp [inShift, h]

end Sys2Proof.Machine

namespace Sys2Proof

open Machine

/-- Settles O28, clause by clause: the turn at the head of the script, the pending setup, the chunk taken, the byte at the
cursor. -/
theorem stepRunsTheDecodedInstruction : Obligations.StepRunsTheDecodedInstruction := by
  unfold Obligations.StepRunsTheDecodedInstruction
  refine ⟨fun s turn rest i hturns henabled hi => step_of_enabled hturns henabled hi, fun s hturn => ?_,
    fun s rest hturns => step_of_core_turn hturns, fun s hpending => exec_setupStep_eq hpending,
    fun s chunk queue hr hq hp => exec_ingest_taken hr hq hp, fun s k b hb => interpretBytes_succ hb⟩
  rcases hturn with hturns | ⟨turn, rest, hturns, hdisabled⟩
  · exact step_core_of_no_turns hturns
  · exact step_core_of_disabled hturns hdisabled

/-- Settles O36, by the condition that each instruction tests. -/
theorem outsideTheRulesOfInstructions : Obligations.OutsideTheRulesOfInstructions := by
  unfold Obligations.OutsideTheRulesOfInstructions
  intro s
  refine ⟨fun chunk => rfl, fun hb hpacket => ?_, fun d hp => if_pos hp, fun hb => if_neg (by simp [hb]),
    fun hcount l => ?_, fun d => ⟨fun h => inShift_refused (w := true) h _, fun h => inShift_refused (w := false) h _⟩⟩
  · simp [exec, execHostTakesIn, hb, hpacket]
  · simp only [List.forall_mem_cons, List.not_mem_nil]
    exact ⟨inBitBang_refused hcount _, inBitBang_refused hcount _, inBitBang_refused hcount _,
      inBitBang_refused hcount _, nofun⟩

end Sys2Proof
end
